-- ==== Sys2Proof/Word.lean ====
section
/-! DEFINITION. The word types of the machine (00_scope.md R6, R8): `DATA_W` = 8, `ADDR_W` = 16. -/

namespace Sys2Proof

/-- A data byte: A, X, Y, SP, P and every memory cell (`DATA_W`, 00_scope.md R6). -/
abbrev Byte := BitVec 8

/-- A 16-bit word: PC and every bus address (`ADDR_W`, 00_scope.md R6). -/
abbrev Word := BitVec 16

end Sys2Proof
end

