-- ==== Sys2Proof/Config.lean ====
section
/-! DEFINITION. What the block fixes (the parameter table of 00_scope.md R6), and the open behaviour of the
external devices: two opaque functions, of which nothing can be proved. -/

namespace Sys2Proof

/-- The devices whose behaviour is a parameter (20_memory.md R32): `PPU_DEV`, `IO_DEV`, `MAPPER`. -/
inductive DeviceName
  | ppu | io | mapper
  deriving DecidableEq, Repr

/-- One access made to an external device (20_memory.md R32: every load and store "counts as an event"). -/
inductive DeviceEvent
  | load (offset : Nat)
  | store (offset : Nat) (v : Byte)
  deriving DecidableEq, Repr

/-- Why a device refuses a load (60_exceptions.md R156). -/
inductive LoadError
  /-- The offset is outside the device (20_memory.md R37). -/
  | offsetOutOfRange
  /-- A fault the device defines itself, `MemoryError(Device(k))`. -/
  | other (k : Nat)
  deriving DecidableEq, Repr, Inhabited

/-- Why a device refuses a store (60_exceptions.md R156). -/
inductive StoreError
  /-- "write to read-only register" (20_memory.md R32), or any store to ROM (R31). -/
  | readOnly
  /-- The offset is outside the device (20_memory.md R37). -/
  | offsetOutOfRange
  /-- A fault the device defines itself, `MemoryError(Device(k))`. -/
  | other (k : Nat)
  deriving DecidableEq, Repr, Inhabited

/-- FREE VALUE: what an external device answers to a load at an offset, given every access made to it so far,
newest first (20_memory.md R32, D22). Opaque: a claim about it holds of every device. Log entry 2. -/
opaque Config.externalLoad : DeviceName → List DeviceEvent → Nat → Except LoadError Byte

/-- FREE VALUE: whether an external device accepts a store, given every access made to it so far, newest first
(20_memory.md R32, D22). Opaque. Log entry 2. -/
opaque Config.externalStore : DeviceName → List DeviceEvent → Nat → Byte → Except StoreError Unit

/-- `RAM_SIZE` (00_scope.md R6). -/
def Config.ramSize : Nat := 0x0800

/-- The size of one program-ROM bank (00_scope.md R6, `PRG_BANKS`). -/
def Config.bankSize : Nat := 0x4000

/-- `PPU_REGS` (00_scope.md R6). -/
def Config.ppuRegs : Nat := 8

/-- `IO_REGS` (00_scope.md R6). -/
def Config.ioRegs : Nat := 0x18

/-- `STACK_BASE` (00_scope.md R6, D2). -/
def Config.stackBase : Word := 0x0100

/-- `VEC_NMI` (00_scope.md R6, D8). -/
def Config.vecNmi : Word := 0xFFFA

/-- `VEC_RESET`, named but never read (20_memory.md R47, D7). -/
def Config.vecReset : Word := 0xFFFC

/-- `VEC_IRQ`, shared by IRQ and BRK (00_scope.md R6, D8). -/
def Config.vecIrq : Word := 0xFFFE

/-- `RESET_PC` (00_scope.md R6). -/
def Config.resetPc : Word := 0xC000

/-- `RESET_SP` (00_scope.md R6). -/
def Config.resetSp : Byte := 0xFD

/-- `RESET_P` (00_scope.md R6): I and U set. -/
def Config.resetP : Byte := 0x24

/-- `RESET_A`, `RESET_X`, `RESET_Y` (00_scope.md R6, D4). -/
def Config.resetReg : Byte := 0x00

/-- DESIGN CHOICE (unsafe, log entry 4): `CYC_RESET` of the state `State.reset`; the spec suggests 0 (D5). -/
def Config.defaultCycReset : Nat := 0

/-- DESIGN CHOICE (unsafe, log entry 5): `INT_CYCLES` of the state `State.reset`; the spec suggests 7 (D24). -/
def Config.defaultIntCycles : Nat := 7

/-- The default of `OPERAND_WRAP` (00_scope.md R6, D14); log entry 8. -/
def Config.defaultOperandWrap : Bool := true

/-- DESIGN CHOICE (unsafe, log entries 6 and 7): what a byte of RAM or of program ROM reads as where no entry
is listed; the spec suggests `RAM_INIT` all zeros (D36). -/
def Config.unlistedByte : Byte := 0x00

end Sys2Proof
end

