-- ==== Sys2Proof/Syntax.lean ====
section
/-! DEFINITION. Abstract syntax: the 15 addressing-mode tags (30_encoding.md R55) and the 67 mnemonics of the
instruction table (R62). An instruction here is what the opcode byte decides: the mnemonic and the mode (and, where one
mnemonic and mode has several opcodes, the opcode). The operand bytes are NOT part of it: 40_engine.md R72 has the
resolver read them through the bus while the instruction runs, as often as the rule calls it, and a read may have side
effects (20_memory.md R32). `Encoded` in Decode.lean pairs an instruction with its operand bytes. Log entry 1. -/

namespace Sys2Proof

/-- The addressing-mode tags (30_encoding.md R55). No descriptor carries `unknown` (D38). -/
inductive Mode
  | implied | accumulator | immediate
  | absolute | absoluteX | absoluteY
  | indirect | indirectX | indirectY
  | zeroPage | zeroPageX | zeroPageY
  | relative | illegal | unknown
  deriving DecidableEq, Repr

/-- The instructions. A mnemonic with several modes takes its mode; `WellFormed.lean` says which modes exist. -/
inductive Instr
  -- 41_load_store_transfer.md
  | lda (m : Mode)
  | ldx (m : Mode)
  | ldy (m : Mode)
  | sta (m : Mode)
  | stx (m : Mode)
  | sty (m : Mode)
  | tax
  | tay
  | txa
  | tya
  | tsx
  | txs
  -- 42_arith_logic.md
  | adc (m : Mode)
  | sbc (m : Mode)
  | and (m : Mode)
  | ora (m : Mode)
  | eor (m : Mode)
  | bit (m : Mode)
  | cmp (m : Mode)
  | cpx (m : Mode)
  | cpy (m : Mode)
  | inc (m : Mode)
  | dec (m : Mode)
  | inx
  | iny
  | dex
  | dey
  -- 43_shift_rotate.md
  | asl (m : Mode)
  | lsr (m : Mode)
  | rol (m : Mode)
  | ror (m : Mode)
  -- 44_control.md
  | jmp (m : Mode)
  | jsr
  | rts
  | bcc
  | bcs
  | beq
  | bne
  | bmi
  | bpl
  | bvc
  | bvs
  -- 45_stack_flags_system.md
  | pha
  | php
  | pla
  | plp
  | clc
  | sec
  | cli
  | sei
  | cld
  | sed
  | clv
  | nop
  | brk
  | rti
  -- 46_unofficial.md; the suffix U stands for the table's prefix *
  /-- `*NOP`: several opcodes share one mode, so the opcode itself is the argument (R145). -/
  | nopU (op : Byte)
  | laxU (m : Mode)
  | saxU (m : Mode)
  | sbcU
  | dcpU (m : Mode)
  | iscU (m : Mode)
  | sloU (m : Mode)
  | rlaU (m : Mode)
  | sreU (m : Mode)
  | rraU (m : Mode)
  /-- `ILLEGAL`: an opcode "present in neither table" (R155, 30_encoding.md R63). -/
  | illegal (op : Byte)
  deriving DecidableEq, Repr

end Sys2Proof
end

