-- ==== Sys2Proof/WellFormed.lean ====
section
/-! DEFINITION. Which terms of `Instr` are instructions of the table: the modes each mnemonic has, from the
Encoding line of its rule, and the opcodes of `*NOP` (46_unofficial.md R145) and `ILLEGAL` (R155). -/

namespace Sys2Proof

/-- The eight modes of the accumulator group with an Immediate form (42_arith_logic.md R97 to R101, R104; R83). -/
def aluModes : List Mode :=
  [.indirectX, .zeroPage, .immediate, .absolute, .indirectY, .zeroPageX, .absoluteY, .absoluteX]

/-- The seven memory modes of STA (R86) and of the read-modify-write composites (R149 to R154). -/
def accStoreModes : List Mode :=
  [.indirectX, .zeroPage, .absolute, .indirectY, .zeroPageX, .absoluteY, .absoluteX]

/-- The memory modes of INC, DEC and the shifts (R107, R108, R113 to R116). -/
def rmwModes : List Mode := [.zeroPage, .absolute, .zeroPageX, .absoluteX]

/-- The 23 opcodes of `*NOP` (46_unofficial.md R145). -/
def nopUOpcodes : List Byte :=
  [0x04, 0x0C, 0x14, 0x1A, 0x1C, 0x34, 0x3A, 0x3C, 0x44, 0x54, 0x5A, 0x5C] ++
  [0x64, 0x74, 0x7A, 0x7C, 0x80, 0xD4, 0xDA, 0xDC, 0xF4, 0xFA, 0xFC]

/-- The 29 opcodes of `ILLEGAL` (46_unofficial.md R155). -/
def illegalOpcodes : List Byte :=
  [0x02, 0x0B, 0x12, 0x22, 0x2B, 0x32, 0x42, 0x4B, 0x52, 0x62, 0x6B, 0x72, 0x82, 0x89, 0x8B] ++
  [0x92, 0x93, 0x9B, 0x9C, 0x9E, 0x9F, 0xAB, 0xB2, 0xBB, 0xC2, 0xCB, 0xD2, 0xE2, 0xF2]

/-- Whether the term is an instruction of the table (30_encoding.md R62). -/
def Instr.wf : Instr → Bool
  | .lda m => aluModes.contains m
  | .ldx m => [Mode.immediate, .zeroPage, .absolute, .zeroPageY, .absoluteY].contains m
  | .ldy m => [Mode.immediate, .zeroPage, .absolute, .zeroPageX, .absoluteX].contains m
  | .sta m => accStoreModes.contains m
  | .stx m => [Mode.zeroPage, .absolute, .zeroPageY].contains m
  | .sty m => [Mode.zeroPage, .absolute, .zeroPageX].contains m
  | .tax => true
  | .tay => true
  | .txa => true
  | .tya => true
  | .tsx => true
  | .txs => true
  | .adc m => aluModes.contains m
  | .sbc m => aluModes.contains m
  | .and m => aluModes.contains m
  | .ora m => aluModes.contains m
  | .eor m => aluModes.contains m
  | .bit m => [Mode.zeroPage, .absolute].contains m
  | .cmp m => aluModes.contains m
  | .cpx m => [Mode.immediate, .zeroPage, .absolute].contains m
  | .cpy m => [Mode.immediate, .zeroPage, .absolute].contains m
  | .inc m => rmwModes.contains m
  | .dec m => rmwModes.contains m
  | .inx => true
  | .iny => true
  | .dex => true
  | .dey => true
  | .asl m => (Mode.accumulator :: rmwModes).contains m
  | .lsr m => (Mode.accumulator :: rmwModes).contains m
  | .rol m => (Mode.accumulator :: rmwModes).contains m
  | .ror m => (Mode.accumulator :: rmwModes).contains m
  | .jmp m => [Mode.absolute, .indirect].contains m
  | .jsr => true
  | .rts => true
  | .bcc => true
  | .bcs => true
  | .beq => true
  | .bne => true
  | .bmi => true
  | .bpl => true
  | .bvc => true
  | .bvs => true
  | .pha => true
  | .php => true
  | .pla => true
  | .plp => true
  | .clc => true
  | .sec => true
  | .cli => true
  | .sei => true
  | .cld => true
  | .sed => true
  | .clv => true
  | .nop => true
  | .brk => true
  | .rti => true
  | .nopU op => nopUOpcodes.contains op
  | .laxU m => [Mode.indirectX, .zeroPage, .absolute, .indirectY, .zeroPageY, .absoluteY].contains m
  | .saxU m => [Mode.indirectX, .zeroPage, .absolute, .zeroPageY].contains m
  | .sbcU => true
  | .dcpU m => accStoreModes.contains m
  | .iscU m => accStoreModes.contains m
  | .sloU m => accStoreModes.contains m
  | .rlaU m => accStoreModes.contains m
  | .sreU m => accStoreModes.contains m
  | .rraU m => accStoreModes.contains m
  | .illegal op => illegalOpcodes.contains op

end Sys2Proof
end

