-- ==== Sys2Proof/Decode.lean ====
section
/-! DEFINITION. The instruction metadata ROM (30_encoding.md R57 to R63), its lookup, the decoder of an opcode and of
a list of bytes (R53, R65), and after them the encoder, written from the Encoding lines of the rules of files 41
to 46. -/

namespace Sys2Proof

/-- The length of a mode's format (30_encoding.md R53, R54). The tag `unknown` has no descriptor (R55). -/
def Mode.length : Mode → Nat
  | .implied => 1
  | .accumulator => 1
  | .immediate => 2
  | .absolute => 3
  | .absoluteX => 3
  | .absoluteY => 3
  | .indirect => 3
  | .indirectX => 2
  | .indirectY => 2
  | .zeroPage => 2
  | .zeroPageX => 2
  | .zeroPageY => 2
  | .relative => 2
  | .illegal => 1
  | .unknown => 1

/-- The mode of each `*NOP` opcode (46_unofficial.md R145). -/
def nopUMode (op : Byte) : Mode :=
  if [(0x04 : Byte), 0x44, 0x64].contains op then .zeroPage
  else if [(0x0C : Byte)].contains op then .absolute
  else if [(0x14 : Byte), 0x34, 0x54, 0x74, 0xD4, 0xF4].contains op then .zeroPageX
  else if [(0x1C : Byte), 0x3C, 0x5C, 0x7C, 0xDC, 0xFC].contains op then .absoluteX
  else if [(0x80 : Byte)].contains op then .immediate
  else .implied

/-- The addressing mode of an instruction (the Encoding line of its rule). -/
def Instr.mode : Instr → Mode
  | .lda m => m
  | .ldx m => m
  | .ldy m => m
  | .sta m => m
  | .stx m => m
  | .sty m => m
  | .tax => .implied
  | .tay => .implied
  | .txa => .implied
  | .tya => .implied
  | .tsx => .implied
  | .txs => .implied
  | .adc m => m
  | .sbc m => m
  | .and m => m
  | .ora m => m
  | .eor m => m
  | .bit m => m
  | .cmp m => m
  | .cpx m => m
  | .cpy m => m
  | .inc m => m
  | .dec m => m
  | .inx => .implied
  | .iny => .implied
  | .dex => .implied
  | .dey => .implied
  | .asl m => m
  | .lsr m => m
  | .rol m => m
  | .ror m => m
  | .jmp m => m
  | .jsr => .absolute
  | .rts => .implied
  | .bcc => .relative
  | .bcs => .relative
  | .beq => .relative
  | .bne => .relative
  | .bmi => .relative
  | .bpl => .relative
  | .bvc => .relative
  | .bvs => .relative
  | .pha => .implied
  | .php => .implied
  | .pla => .implied
  | .plp => .implied
  | .clc => .implied
  | .sec => .implied
  | .cli => .implied
  | .sei => .implied
  | .cld => .implied
  | .sed => .implied
  | .clv => .implied
  | .nop => .implied
  | .brk => .implied
  | .rti => .implied
  | .nopU op => nopUMode op
  | .laxU m => m
  | .saxU m => m
  | .sbcU => .immediate
  | .dcpU m => m
  | .iscU m => m
  | .sloU m => m
  | .rlaU m => m
  | .sreU m => m
  | .rraU m => m
  | .illegal _ => .illegal

/-- The display mnemonic, with the `*` that marks an undocumented opcode (30_encoding.md R57, D13). -/
def Instr.mnemonic : Instr → String
  | .lda _ => "LDA"
  | .ldx _ => "LDX"
  | .ldy _ => "LDY"
  | .sta _ => "STA"
  | .stx _ => "STX"
  | .sty _ => "STY"
  | .tax => "TAX"
  | .tay => "TAY"
  | .txa => "TXA"
  | .tya => "TYA"
  | .tsx => "TSX"
  | .txs => "TXS"
  | .adc _ => "ADC"
  | .sbc _ => "SBC"
  | .and _ => "AND"
  | .ora _ => "ORA"
  | .eor _ => "EOR"
  | .bit _ => "BIT"
  | .cmp _ => "CMP"
  | .cpx _ => "CPX"
  | .cpy _ => "CPY"
  | .inc _ => "INC"
  | .dec _ => "DEC"
  | .inx => "INX"
  | .iny => "INY"
  | .dex => "DEX"
  | .dey => "DEY"
  | .asl _ => "ASL"
  | .lsr _ => "LSR"
  | .rol _ => "ROL"
  | .ror _ => "ROR"
  | .jmp _ => "JMP"
  | .jsr => "JSR"
  | .rts => "RTS"
  | .bcc => "BCC"
  | .bcs => "BCS"
  | .beq => "BEQ"
  | .bne => "BNE"
  | .bmi => "BMI"
  | .bpl => "BPL"
  | .bvc => "BVC"
  | .bvs => "BVS"
  | .pha => "PHA"
  | .php => "PHP"
  | .pla => "PLA"
  | .plp => "PLP"
  | .clc => "CLC"
  | .sec => "SEC"
  | .cli => "CLI"
  | .sei => "SEI"
  | .cld => "CLD"
  | .sed => "SED"
  | .clv => "CLV"
  | .nop => "NOP"
  | .brk => "BRK"
  | .rti => "RTI"
  | .nopU _ => "*NOP"
  | .laxU _ => "*LAX"
  | .saxU _ => "*SAX"
  | .sbcU => "*SBC"
  | .dcpU _ => "*DCP"
  | .iscU _ => "*ISC"
  | .sloU _ => "*SLO"
  | .rlaU _ => "*RLA"
  | .sreU _ => "*SRE"
  | .rraU _ => "*RRA"
  | .illegal _ => "ILLEGAL"

/-- One row of the table of 30_encoding.md R62: opcode, mnemonic and mode (as an `Instr`), length, base cycles,
`can_cross_page`. -/
structure Row where
  opcode : Byte
  instr : Instr
  length : Nat
  cycles : Nat
  canCrossPage : Bool
  deriving DecidableEq, Repr

/-- The documented opcodes 0x00 to 0x0F (30_encoding.md R62). -/
def legalRows0 : List Row :=
  [⟨0x00, .brk, 1, 7, false⟩,
   ⟨0x01, .ora .indirectX, 2, 6, false⟩,
   ⟨0x05, .ora .zeroPage, 2, 3, false⟩,
   ⟨0x06, .asl .zeroPage, 2, 5, false⟩,
   ⟨0x08, .php, 1, 3, false⟩,
   ⟨0x09, .ora .immediate, 2, 2, false⟩,
   ⟨0x0A, .asl .accumulator, 1, 2, false⟩,
   ⟨0x0D, .ora .absolute, 3, 4, false⟩,
   ⟨0x0E, .asl .absolute, 3, 6, false⟩]

/-- The documented opcodes 0x10 to 0x1F (30_encoding.md R62). -/
def legalRows1 : List Row :=
  [⟨0x10, .bpl, 2, 2, true⟩,
   ⟨0x11, .ora .indirectY, 2, 5, true⟩,
   ⟨0x15, .ora .zeroPageX, 2, 4, false⟩,
   ⟨0x16, .asl .zeroPageX, 2, 6, false⟩,
   ⟨0x18, .clc, 1, 2, false⟩,
   ⟨0x19, .ora .absoluteY, 3, 4, true⟩,
   ⟨0x1D, .ora .absoluteX, 3, 4, true⟩,
   ⟨0x1E, .asl .absoluteX, 3, 7, false⟩]

/-- The documented opcodes 0x20 to 0x2F (30_encoding.md R62). -/
def legalRows2 : List Row :=
  [⟨0x20, .jsr, 3, 6, false⟩,
   ⟨0x21, .and .indirectX, 2, 6, false⟩,
   ⟨0x24, .bit .zeroPage, 2, 3, false⟩,
   ⟨0x25, .and .zeroPage, 2, 3, false⟩,
   ⟨0x26, .rol .zeroPage, 2, 5, false⟩,
   ⟨0x28, .plp, 1, 4, false⟩,
   ⟨0x29, .and .immediate, 2, 2, false⟩,
   ⟨0x2A, .rol .accumulator, 1, 2, false⟩,
   ⟨0x2C, .bit .absolute, 3, 4, false⟩,
   ⟨0x2D, .and .absolute, 3, 4, false⟩,
   ⟨0x2E, .rol .absolute, 3, 6, false⟩]

/-- The documented opcodes 0x30 to 0x3F (30_encoding.md R62). -/
def legalRows3 : List Row :=
  [⟨0x30, .bmi, 2, 2, true⟩,
   ⟨0x31, .and .indirectY, 2, 5, true⟩,
   ⟨0x35, .and .zeroPageX, 2, 4, false⟩,
   ⟨0x36, .rol .zeroPageX, 2, 6, false⟩,
   ⟨0x38, .sec, 1, 2, false⟩,
   ⟨0x39, .and .absoluteY, 3, 4, true⟩,
   ⟨0x3D, .and .absoluteX, 3, 4, true⟩,
   ⟨0x3E, .rol .absoluteX, 3, 7, false⟩]

/-- The documented opcodes 0x40 to 0x4F (30_encoding.md R62). -/
def legalRows4 : List Row :=
  [⟨0x40, .rti, 1, 6, false⟩,
   ⟨0x41, .eor .indirectX, 2, 6, false⟩,
   ⟨0x45, .eor .zeroPage, 2, 3, false⟩,
   ⟨0x46, .lsr .zeroPage, 2, 5, false⟩,
   ⟨0x48, .pha, 1, 3, false⟩,
   ⟨0x49, .eor .immediate, 2, 2, false⟩,
   ⟨0x4A, .lsr .accumulator, 1, 2, false⟩,
   ⟨0x4C, .jmp .absolute, 3, 3, false⟩,
   ⟨0x4D, .eor .absolute, 3, 4, false⟩,
   ⟨0x4E, .lsr .absolute, 3, 6, false⟩]

/-- The documented opcodes 0x50 to 0x5F (30_encoding.md R62). -/
def legalRows5 : List Row :=
  [⟨0x50, .bvc, 2, 2, true⟩,
   ⟨0x51, .eor .indirectY, 2, 5, true⟩,
   ⟨0x55, .eor .zeroPageX, 2, 4, false⟩,
   ⟨0x56, .lsr .zeroPageX, 2, 6, false⟩,
   ⟨0x58, .cli, 1, 2, false⟩,
   ⟨0x59, .eor .absoluteY, 3, 4, true⟩,
   ⟨0x5D, .eor .absoluteX, 3, 4, true⟩,
   ⟨0x5E, .lsr .absoluteX, 3, 7, false⟩]

/-- The documented opcodes 0x60 to 0x6F (30_encoding.md R62). -/
def legalRows6 : List Row :=
  [⟨0x60, .rts, 1, 6, false⟩,
   ⟨0x61, .adc .indirectX, 2, 6, false⟩,
   ⟨0x65, .adc .zeroPage, 2, 3, false⟩,
   ⟨0x66, .ror .zeroPage, 2, 5, false⟩,
   ⟨0x68, .pla, 1, 4, false⟩,
   ⟨0x69, .adc .immediate, 2, 2, false⟩,
   ⟨0x6A, .ror .accumulator, 1, 2, false⟩,
   ⟨0x6C, .jmp .indirect, 3, 5, false⟩,
   ⟨0x6D, .adc .absolute, 3, 4, false⟩,
   ⟨0x6E, .ror .absolute, 3, 6, false⟩]

/-- The documented opcodes 0x70 to 0x7F (30_encoding.md R62). -/
def legalRows7 : List Row :=
  [⟨0x70, .bvs, 2, 2, true⟩,
   ⟨0x71, .adc .indirectY, 2, 5, true⟩,
   ⟨0x75, .adc .zeroPageX, 2, 4, false⟩,
   ⟨0x76, .ror .zeroPageX, 2, 6, false⟩,
   ⟨0x78, .sei, 1, 2, false⟩,
   ⟨0x79, .adc .absoluteY, 3, 4, true⟩,
   ⟨0x7D, .adc .absoluteX, 3, 4, true⟩,
   ⟨0x7E, .ror .absoluteX, 3, 7, false⟩]

/-- The documented opcodes 0x80 to 0x8F (30_encoding.md R62). -/
def legalRows8 : List Row :=
  [⟨0x81, .sta .indirectX, 2, 6, false⟩,
   ⟨0x84, .sty .zeroPage, 2, 3, false⟩,
   ⟨0x85, .sta .zeroPage, 2, 3, false⟩,
   ⟨0x86, .stx .zeroPage, 2, 3, false⟩,
   ⟨0x88, .dey, 1, 2, false⟩,
   ⟨0x8A, .txa, 1, 2, false⟩,
   ⟨0x8C, .sty .absolute, 3, 4, false⟩,
   ⟨0x8D, .sta .absolute, 3, 4, false⟩,
   ⟨0x8E, .stx .absolute, 3, 4, false⟩]

/-- The documented opcodes 0x90 to 0x9F (30_encoding.md R62). -/
def legalRows9 : List Row :=
  [⟨0x90, .bcc, 2, 2, true⟩,
   ⟨0x91, .sta .indirectY, 2, 6, false⟩,
   ⟨0x94, .sty .zeroPageX, 2, 4, false⟩,
   ⟨0x95, .sta .zeroPageX, 2, 4, false⟩,
   ⟨0x96, .stx .zeroPageY, 2, 4, false⟩,
   ⟨0x98, .tya, 1, 2, false⟩,
   ⟨0x99, .sta .absoluteY, 3, 5, false⟩,
   ⟨0x9A, .txs, 1, 2, false⟩,
   ⟨0x9D, .sta .absoluteX, 3, 5, false⟩]

/-- The documented opcodes 0xA0 to 0xAF (30_encoding.md R62). -/
def legalRowsA : List Row :=
  [⟨0xA0, .ldy .immediate, 2, 2, false⟩,
   ⟨0xA1, .lda .indirectX, 2, 6, false⟩,
   ⟨0xA2, .ldx .immediate, 2, 2, false⟩,
   ⟨0xA4, .ldy .zeroPage, 2, 3, false⟩,
   ⟨0xA5, .lda .zeroPage, 2, 3, false⟩,
   ⟨0xA6, .ldx .zeroPage, 2, 3, false⟩,
   ⟨0xA8, .tay, 1, 2, false⟩,
   ⟨0xA9, .lda .immediate, 2, 2, false⟩,
   ⟨0xAA, .tax, 1, 2, false⟩,
   ⟨0xAC, .ldy .absolute, 3, 4, false⟩,
   ⟨0xAD, .lda .absolute, 3, 4, false⟩,
   ⟨0xAE, .ldx .absolute, 3, 4, false⟩]

/-- The documented opcodes 0xB0 to 0xBF (30_encoding.md R62). -/
def legalRowsB : List Row :=
  [⟨0xB0, .bcs, 2, 2, true⟩,
   ⟨0xB1, .lda .indirectY, 2, 5, true⟩,
   ⟨0xB4, .ldy .zeroPageX, 2, 4, false⟩,
   ⟨0xB5, .lda .zeroPageX, 2, 4, false⟩,
   ⟨0xB6, .ldx .zeroPageY, 2, 4, false⟩,
   ⟨0xB8, .clv, 1, 2, false⟩,
   ⟨0xB9, .lda .absoluteY, 3, 4, true⟩,
   ⟨0xBA, .tsx, 1, 2, false⟩,
   ⟨0xBC, .ldy .absoluteX, 3, 4, true⟩,
   ⟨0xBD, .lda .absoluteX, 3, 4, true⟩,
   ⟨0xBE, .ldx .absoluteY, 3, 4, true⟩]

/-- The documented opcodes 0xC0 to 0xCF (30_encoding.md R62). -/
def legalRowsC : List Row :=
  [⟨0xC0, .cpy .immediate, 2, 2, false⟩,
   ⟨0xC1, .cmp .indirectX, 2, 6, false⟩,
   ⟨0xC4, .cpy .zeroPage, 2, 3, false⟩,
   ⟨0xC5, .cmp .zeroPage, 2, 3, false⟩,
   ⟨0xC6, .dec .zeroPage, 2, 5, false⟩,
   ⟨0xC8, .iny, 1, 2, false⟩,
   ⟨0xC9, .cmp .immediate, 2, 2, false⟩,
   ⟨0xCA, .dex, 1, 2, false⟩,
   ⟨0xCC, .cpy .absolute, 3, 4, false⟩,
   ⟨0xCD, .cmp .absolute, 3, 4, false⟩,
   ⟨0xCE, .dec .absolute, 3, 6, false⟩]

/-- The documented opcodes 0xD0 to 0xDF (30_encoding.md R62). -/
def legalRowsD : List Row :=
  [⟨0xD0, .bne, 2, 2, true⟩,
   ⟨0xD1, .cmp .indirectY, 2, 5, true⟩,
   ⟨0xD5, .cmp .zeroPageX, 2, 4, false⟩,
   ⟨0xD6, .dec .zeroPageX, 2, 6, false⟩,
   ⟨0xD8, .cld, 1, 2, false⟩,
   ⟨0xD9, .cmp .absoluteY, 3, 4, true⟩,
   ⟨0xDD, .cmp .absoluteX, 3, 4, true⟩,
   ⟨0xDE, .dec .absoluteX, 3, 7, false⟩]

/-- The documented opcodes 0xE0 to 0xEF (30_encoding.md R62). -/
def legalRowsE : List Row :=
  [⟨0xE0, .cpx .immediate, 2, 2, false⟩,
   ⟨0xE1, .sbc .indirectX, 2, 6, false⟩,
   ⟨0xE4, .cpx .zeroPage, 2, 3, false⟩,
   ⟨0xE5, .sbc .zeroPage, 2, 3, false⟩,
   ⟨0xE6, .inc .zeroPage, 2, 5, false⟩,
   ⟨0xE8, .inx, 1, 2, false⟩,
   ⟨0xE9, .sbc .immediate, 2, 2, false⟩,
   ⟨0xEA, .nop, 1, 2, false⟩,
   ⟨0xEC, .cpx .absolute, 3, 4, false⟩,
   ⟨0xED, .sbc .absolute, 3, 4, false⟩,
   ⟨0xEE, .inc .absolute, 3, 6, false⟩]

/-- The documented opcodes 0xF0 to 0xFF (30_encoding.md R62). -/
def legalRowsF : List Row :=
  [⟨0xF0, .beq, 2, 2, true⟩,
   ⟨0xF1, .sbc .indirectY, 2, 5, true⟩,
   ⟨0xF5, .sbc .zeroPageX, 2, 4, false⟩,
   ⟨0xF6, .inc .zeroPageX, 2, 6, false⟩,
   ⟨0xF8, .sed, 1, 2, false⟩,
   ⟨0xF9, .sbc .absoluteY, 3, 4, true⟩,
   ⟨0xFD, .sbc .absoluteX, 3, 4, true⟩,
   ⟨0xFE, .inc .absoluteX, 3, 7, false⟩]

/-- The "legal" table (30_encoding.md R58), one list for each row (high nibble) of the opcode matrix (R61). -/
def legalBlocks : List (List Row) :=
  [legalRows0, legalRows1, legalRows2, legalRows3,
   legalRows4, legalRows5, legalRows6, legalRows7,
   legalRows8, legalRows9, legalRowsA, legalRowsB,
   legalRowsC, legalRowsD, legalRowsE, legalRowsF]

/-- The undocumented opcodes 0x00 to 0x0F (30_encoding.md R62). -/
def undocumentedRows0 : List Row :=
  [⟨0x03, .sloU .indirectX, 2, 8, false⟩,
   ⟨0x04, .nopU 0x04, 2, 3, false⟩,
   ⟨0x07, .sloU .zeroPage, 2, 5, false⟩,
   ⟨0x0C, .nopU 0x0C, 3, 4, false⟩,
   ⟨0x0F, .sloU .absolute, 3, 6, false⟩]

/-- The undocumented opcodes 0x10 to 0x1F (30_encoding.md R62). -/
def undocumentedRows1 : List Row :=
  [⟨0x13, .sloU .indirectY, 2, 8, false⟩,
   ⟨0x14, .nopU 0x14, 2, 4, false⟩,
   ⟨0x17, .sloU .zeroPageX, 2, 6, false⟩,
   ⟨0x1A, .nopU 0x1A, 1, 2, false⟩,
   ⟨0x1B, .sloU .absoluteY, 3, 7, false⟩,
   ⟨0x1C, .nopU 0x1C, 3, 4, true⟩,
   ⟨0x1F, .sloU .absoluteX, 3, 7, false⟩]

/-- The undocumented opcodes 0x20 to 0x2F (30_encoding.md R62). -/
def undocumentedRows2 : List Row :=
  [⟨0x23, .rlaU .indirectX, 2, 8, false⟩,
   ⟨0x27, .rlaU .zeroPage, 2, 5, false⟩,
   ⟨0x2F, .rlaU .absolute, 3, 6, false⟩]

/-- The undocumented opcodes 0x30 to 0x3F (30_encoding.md R62). -/
def undocumentedRows3 : List Row :=
  [⟨0x33, .rlaU .indirectY, 2, 8, false⟩,
   ⟨0x34, .nopU 0x34, 2, 4, false⟩,
   ⟨0x37, .rlaU .zeroPageX, 2, 6, false⟩,
   ⟨0x3A, .nopU 0x3A, 1, 2, false⟩,
   ⟨0x3B, .rlaU .absoluteY, 3, 7, false⟩,
   ⟨0x3C, .nopU 0x3C, 3, 4, true⟩,
   ⟨0x3F, .rlaU .absoluteX, 3, 7, false⟩]

/-- The undocumented opcodes 0x40 to 0x4F (30_encoding.md R62). -/
def undocumentedRows4 : List Row :=
  [⟨0x43, .sreU .indirectX, 2, 8, false⟩,
   ⟨0x44, .nopU 0x44, 2, 3, false⟩,
   ⟨0x47, .sreU .zeroPage, 2, 5, false⟩,
   ⟨0x4F, .sreU .absolute, 3, 6, false⟩]

/-- The undocumented opcodes 0x50 to 0x5F (30_encoding.md R62). -/
def undocumentedRows5 : List Row :=
  [⟨0x53, .sreU .indirectY, 2, 8, false⟩,
   ⟨0x54, .nopU 0x54, 2, 4, false⟩,
   ⟨0x57, .sreU .zeroPageX, 2, 6, false⟩,
   ⟨0x5A, .nopU 0x5A, 1, 2, false⟩,
   ⟨0x5B, .sreU .absoluteY, 3, 7, false⟩,
   ⟨0x5C, .nopU 0x5C, 3, 4, true⟩,
   ⟨0x5F, .sreU .absoluteX, 3, 7, false⟩]

/-- The undocumented opcodes 0x60 to 0x6F (30_encoding.md R62). -/
def undocumentedRows6 : List Row :=
  [⟨0x63, .rraU .indirectX, 2, 8, false⟩,
   ⟨0x64, .nopU 0x64, 2, 3, false⟩,
   ⟨0x67, .rraU .zeroPage, 2, 5, false⟩,
   ⟨0x6F, .rraU .absolute, 3, 6, false⟩]

/-- The undocumented opcodes 0x70 to 0x7F (30_encoding.md R62). -/
def undocumentedRows7 : List Row :=
  [⟨0x73, .rraU .indirectY, 2, 8, false⟩,
   ⟨0x74, .nopU 0x74, 2, 4, false⟩,
   ⟨0x77, .rraU .zeroPageX, 2, 6, false⟩,
   ⟨0x7A, .nopU 0x7A, 1, 2, false⟩,
   ⟨0x7B, .rraU .absoluteY, 3, 7, false⟩,
   ⟨0x7C, .nopU 0x7C, 3, 4, true⟩,
   ⟨0x7F, .rraU .absoluteX, 3, 7, false⟩]

/-- The undocumented opcodes 0x80 to 0x8F (30_encoding.md R62). -/
def undocumentedRows8 : List Row :=
  [⟨0x80, .nopU 0x80, 2, 2, false⟩,
   ⟨0x83, .saxU .indirectX, 2, 6, false⟩,
   ⟨0x87, .saxU .zeroPage, 2, 3, false⟩,
   ⟨0x8F, .saxU .absolute, 3, 4, false⟩]

/-- The undocumented opcodes 0x90 to 0x9F (30_encoding.md R62). -/
def undocumentedRows9 : List Row :=
  [⟨0x97, .saxU .zeroPageY, 2, 4, false⟩]

/-- The undocumented opcodes 0xA0 to 0xAF (30_encoding.md R62). -/
def undocumentedRowsA : List Row :=
  [⟨0xA3, .laxU .indirectX, 2, 6, false⟩,
   ⟨0xA7, .laxU .zeroPage, 2, 3, false⟩,
   ⟨0xAF, .laxU .absolute, 3, 4, false⟩]

/-- The undocumented opcodes 0xB0 to 0xBF (30_encoding.md R62). -/
def undocumentedRowsB : List Row :=
  [⟨0xB3, .laxU .indirectY, 2, 5, true⟩,
   ⟨0xB7, .laxU .zeroPageY, 2, 4, false⟩,
   ⟨0xBF, .laxU .absoluteY, 3, 4, true⟩]

/-- The undocumented opcodes 0xC0 to 0xCF (30_encoding.md R62). -/
def undocumentedRowsC : List Row :=
  [⟨0xC3, .dcpU .indirectX, 2, 8, false⟩,
   ⟨0xC7, .dcpU .zeroPage, 2, 5, false⟩,
   ⟨0xCF, .dcpU .absolute, 3, 6, false⟩]

/-- The undocumented opcodes 0xD0 to 0xDF (30_encoding.md R62). -/
def undocumentedRowsD : List Row :=
  [⟨0xD3, .dcpU .indirectY, 2, 8, false⟩,
   ⟨0xD4, .nopU 0xD4, 2, 4, false⟩,
   ⟨0xD7, .dcpU .zeroPageX, 2, 6, false⟩,
   ⟨0xDA, .nopU 0xDA, 1, 2, false⟩,
   ⟨0xDB, .dcpU .absoluteY, 3, 7, false⟩,
   ⟨0xDC, .nopU 0xDC, 3, 4, true⟩,
   ⟨0xDF, .dcpU .absoluteX, 3, 7, false⟩]

/-- The undocumented opcodes 0xE0 to 0xEF (30_encoding.md R62). -/
def undocumentedRowsE : List Row :=
  [⟨0xE3, .iscU .indirectX, 2, 8, false⟩,
   ⟨0xE7, .iscU .zeroPage, 2, 5, false⟩,
   ⟨0xEB, .sbcU, 2, 2, false⟩,
   ⟨0xEF, .iscU .absolute, 3, 6, false⟩]

/-- The undocumented opcodes 0xF0 to 0xFF (30_encoding.md R62). -/
def undocumentedRowsF : List Row :=
  [⟨0xF3, .iscU .indirectY, 2, 8, false⟩,
   ⟨0xF4, .nopU 0xF4, 2, 4, false⟩,
   ⟨0xF7, .iscU .zeroPageX, 2, 6, false⟩,
   ⟨0xFA, .nopU 0xFA, 1, 2, false⟩,
   ⟨0xFB, .iscU .absoluteY, 3, 7, false⟩,
   ⟨0xFC, .nopU 0xFC, 3, 4, true⟩,
   ⟨0xFF, .iscU .absoluteX, 3, 7, false⟩]

/-- The "illegal/undocumented" table (30_encoding.md R58), one list for each row (high nibble) of the opcode matrix (R61). -/
def undocumentedBlocks : List (List Row) :=
  [undocumentedRows0, undocumentedRows1, undocumentedRows2, undocumentedRows3,
   undocumentedRows4, undocumentedRows5, undocumentedRows6, undocumentedRows7,
   undocumentedRows8, undocumentedRows9, undocumentedRowsA, undocumentedRowsB,
   undocumentedRowsC, undocumentedRowsD, undocumentedRowsE, undocumentedRowsF]

/-- The row of an opcode in neither table: the Illegal descriptor, 1 byte, 0 cycles (30_encoding.md R58). -/
def illegalRow (op : Byte) : Row := ⟨op, .illegal op, 1, 0, false⟩

/-- The last row of a table that defines the opcode, if any: "on collision last writer wins" (30_encoding.md R58). -/
def findRow (rows : List Row) (op : Byte) : Option Row :=
  rows.foldl (fun found r => if r.opcode = op then some r else found) none

/-- The rows of one high nibble in the merged table: the undocumented rows are written after the legal ones
(30_encoding.md R58). -/
def mergedRows (hi : Nat) : List Row := legalBlocks.getD hi [] ++ undocumentedBlocks.getD hi []

/-- The merged table at one opcode (30_encoding.md R58): the Illegal row for an opcode in neither table. -/
def lookupRow (op : Byte) : Row :=
  (findRow (mergedRows (op.toNat / 16)) op).getD (illegalRow op)

/-- A descriptor of the instruction metadata ROM (30_encoding.md R57). -/
structure Descriptor where
  opcode : Byte
  mnemonic : String
  length : Nat
  cycles : Nat
  canCrossPage : Bool
  mode : Mode
  deriving DecidableEq, Repr

/-- The descriptor a row of the table gives. -/
def Row.descriptor (r : Row) : Descriptor :=
  ⟨r.opcode, r.instr.mnemonic, r.length, r.cycles, r.canCrossPage, r.instr.mode⟩

/-- `lookup(opcode) -> Descriptor`: total and pure (30_encoding.md R58). -/
def lookup (op : Byte) : Descriptor := (lookupRow op).descriptor

/-- The dispatch map (30_encoding.md R59): the one instruction an opcode stands for, `illegal` by default. -/
def decode (op : Byte) : Instr := (lookupRow op).instr

/-- The operand bytes of an instruction, in address order (30_encoding.md R53). -/
inductive OperandBytes
  | none
  | one (b1 : Byte)
  | two (b1 b2 : Byte)
  deriving DecidableEq, Repr

/-- How many operand bytes there are. -/
def OperandBytes.count : OperandBytes → Nat
  | .none => 0
  | .one _ => 1
  | .two _ _ => 2

/-- The operand bytes as a list, in address order. -/
def OperandBytes.toList : OperandBytes → List Byte
  | .none => []
  | .one b1 => [b1]
  | .two b1 b2 => [b1, b2]

/-- A whole instruction as it stands in memory: the instruction and its operand bytes (30_encoding.md R53). -/
structure Encoded where
  instr : Instr
  operand : OperandBytes
  deriving DecidableEq, Repr

/-- A well-formed instruction with as many operand bytes as its format has. -/
def Encoded.wf (e : Encoded) : Bool := e.instr.wf && e.operand.count + 1 == e.instr.mode.length

/-- Why a list of bytes holds no whole instruction. -/
inductive DecodeError
  /-- There is no byte at all. -/
  | noOpcode
  /-- The opcode needs more operand bytes than there are. -/
  | truncated (op : Byte)
  deriving DecidableEq, Repr

/-- Decode the first instruction of a list of bytes: "reads one byte, looks up its descriptor, and takes `length − 1`
more bytes" (30_encoding.md R65). Total; what follows the instruction is handed back. -/
def decodeBytes : List Byte → Except DecodeError (Encoded × List Byte)
  | [] => .error .noOpcode
  | op :: rest =>
    match (lookup op).length, rest with
    | 1, r => .ok (⟨decode op, .none⟩, r)
    | 2, b1 :: r => .ok (⟨decode op, .one b1⟩, r)
    | 3, b1 :: b2 :: r => .ok (⟨decode op, .two b1 b2⟩, r)
    | _, _ => .error (.truncated op)

/-! The encoder. Each function is the Encoding line of the rule it names. -/

/-- LDA (R83). -/
def ldaOpcode : Mode → Option Byte
  | .indirectX => some 0xA1
  | .zeroPage => some 0xA5
  | .immediate => some 0xA9
  | .absolute => some 0xAD
  | .indirectY => some 0xB1
  | .zeroPageX => some 0xB5
  | .absoluteY => some 0xB9
  | .absoluteX => some 0xBD
  | _ => none

/-- LDX (R84). -/
def ldxOpcode : Mode → Option Byte
  | .immediate => some 0xA2
  | .zeroPage => some 0xA6
  | .absolute => some 0xAE
  | .zeroPageY => some 0xB6
  | .absoluteY => some 0xBE
  | _ => none

/-- LDY (R85). -/
def ldyOpcode : Mode → Option Byte
  | .immediate => some 0xA0
  | .zeroPage => some 0xA4
  | .absolute => some 0xAC
  | .zeroPageX => some 0xB4
  | .absoluteX => some 0xBC
  | _ => none

/-- STA (R86). -/
def staOpcode : Mode → Option Byte
  | .indirectX => some 0x81
  | .zeroPage => some 0x85
  | .absolute => some 0x8D
  | .indirectY => some 0x91
  | .zeroPageX => some 0x95
  | .absoluteY => some 0x99
  | .absoluteX => some 0x9D
  | _ => none

/-- STX (R87). -/
def stxOpcode : Mode → Option Byte
  | .zeroPage => some 0x86
  | .absolute => some 0x8E
  | .zeroPageY => some 0x96
  | _ => none

/-- STY (R88). -/
def styOpcode : Mode → Option Byte
  | .zeroPage => some 0x84
  | .absolute => some 0x8C
  | .zeroPageX => some 0x94
  | _ => none

/-- ADC (R97). -/
def adcOpcode : Mode → Option Byte
  | .indirectX => some 0x61
  | .zeroPage => some 0x65
  | .immediate => some 0x69
  | .absolute => some 0x6D
  | .indirectY => some 0x71
  | .zeroPageX => some 0x75
  | .absoluteY => some 0x79
  | .absoluteX => some 0x7D
  | _ => none

/-- SBC (R98). -/
def sbcOpcode : Mode → Option Byte
  | .indirectX => some 0xE1
  | .zeroPage => some 0xE5
  | .immediate => some 0xE9
  | .absolute => some 0xED
  | .indirectY => some 0xF1
  | .zeroPageX => some 0xF5
  | .absoluteY => some 0xF9
  | .absoluteX => some 0xFD
  | _ => none

/-- AND (R99). -/
def andOpcode : Mode → Option Byte
  | .indirectX => some 0x21
  | .zeroPage => some 0x25
  | .immediate => some 0x29
  | .absolute => some 0x2D
  | .indirectY => some 0x31
  | .zeroPageX => some 0x35
  | .absoluteY => some 0x39
  | .absoluteX => some 0x3D
  | _ => none

/-- ORA (R100). -/
def oraOpcode : Mode → Option Byte
  | .indirectX => some 0x01
  | .zeroPage => some 0x05
  | .immediate => some 0x09
  | .absolute => some 0x0D
  | .indirectY => some 0x11
  | .zeroPageX => some 0x15
  | .absoluteY => some 0x19
  | .absoluteX => some 0x1D
  | _ => none

/-- EOR (R101). -/
def eorOpcode : Mode → Option Byte
  | .indirectX => some 0x41
  | .zeroPage => some 0x45
  | .immediate => some 0x49
  | .absolute => some 0x4D
  | .indirectY => some 0x51
  | .zeroPageX => some 0x55
  | .absoluteY => some 0x59
  | .absoluteX => some 0x5D
  | _ => none

/-- BIT (R102). -/
def bitOpcode : Mode → Option Byte
  | .zeroPage => some 0x24
  | .absolute => some 0x2C
  | _ => none

/-- CMP (R104). -/
def cmpOpcode : Mode → Option Byte
  | .indirectX => some 0xC1
  | .zeroPage => some 0xC5
  | .immediate => some 0xC9
  | .absolute => some 0xCD
  | .indirectY => some 0xD1
  | .zeroPageX => some 0xD5
  | .absoluteY => some 0xD9
  | .absoluteX => some 0xDD
  | _ => none

/-- CPX (R105). -/
def cpxOpcode : Mode → Option Byte
  | .immediate => some 0xE0
  | .zeroPage => some 0xE4
  | .absolute => some 0xEC
  | _ => none

/-- CPY (R106). -/
def cpyOpcode : Mode → Option Byte
  | .immediate => some 0xC0
  | .zeroPage => some 0xC4
  | .absolute => some 0xCC
  | _ => none

/-- INC (R107). -/
def incOpcode : Mode → Option Byte
  | .zeroPage => some 0xE6
  | .absolute => some 0xEE
  | .zeroPageX => some 0xF6
  | .absoluteX => some 0xFE
  | _ => none

/-- DEC (R108). -/
def decOpcode : Mode → Option Byte
  | .zeroPage => some 0xC6
  | .absolute => some 0xCE
  | .zeroPageX => some 0xD6
  | .absoluteX => some 0xDE
  | _ => none

/-- ASL (R113). -/
def aslOpcode : Mode → Option Byte
  | .zeroPage => some 0x06
  | .accumulator => some 0x0A
  | .absolute => some 0x0E
  | .zeroPageX => some 0x16
  | .absoluteX => some 0x1E
  | _ => none

/-- LSR (R114). -/
def lsrOpcode : Mode → Option Byte
  | .zeroPage => some 0x46
  | .accumulator => some 0x4A
  | .absolute => some 0x4E
  | .zeroPageX => some 0x56
  | .absoluteX => some 0x5E
  | _ => none

/-- ROL (R115). -/
def rolOpcode : Mode → Option Byte
  | .zeroPage => some 0x26
  | .accumulator => some 0x2A
  | .absolute => some 0x2E
  | .zeroPageX => some 0x36
  | .absoluteX => some 0x3E
  | _ => none

/-- ROR (R116). -/
def rorOpcode : Mode → Option Byte
  | .zeroPage => some 0x66
  | .accumulator => some 0x6A
  | .absolute => some 0x6E
  | .zeroPageX => some 0x76
  | .absoluteX => some 0x7E
  | _ => none

/-- JMP (R117). -/
def jmpOpcode : Mode → Option Byte
  | .absolute => some 0x4C
  | .indirect => some 0x6C
  | _ => none

/-- *LAX (R146). -/
def laxUOpcode : Mode → Option Byte
  | .indirectX => some 0xA3
  | .zeroPage => some 0xA7
  | .absolute => some 0xAF
  | .indirectY => some 0xB3
  | .zeroPageY => some 0xB7
  | .absoluteY => some 0xBF
  | _ => none

/-- *SAX (R147). -/
def saxUOpcode : Mode → Option Byte
  | .indirectX => some 0x83
  | .zeroPage => some 0x87
  | .absolute => some 0x8F
  | .zeroPageY => some 0x97
  | _ => none

/-- *DCP (R149). -/
def dcpUOpcode : Mode → Option Byte
  | .indirectX => some 0xC3
  | .zeroPage => some 0xC7
  | .absolute => some 0xCF
  | .indirectY => some 0xD3
  | .zeroPageX => some 0xD7
  | .absoluteY => some 0xDB
  | .absoluteX => some 0xDF
  | _ => none

/-- *ISC (R150). -/
def iscUOpcode : Mode → Option Byte
  | .indirectX => some 0xE3
  | .zeroPage => some 0xE7
  | .absolute => some 0xEF
  | .indirectY => some 0xF3
  | .zeroPageX => some 0xF7
  | .absoluteY => some 0xFB
  | .absoluteX => some 0xFF
  | _ => none

/-- *SLO (R151). -/
def sloUOpcode : Mode → Option Byte
  | .indirectX => some 0x03
  | .zeroPage => some 0x07
  | .absolute => some 0x0F
  | .indirectY => some 0x13
  | .zeroPageX => some 0x17
  | .absoluteY => some 0x1B
  | .absoluteX => some 0x1F
  | _ => none

/-- *RLA (R152). -/
def rlaUOpcode : Mode → Option Byte
  | .indirectX => some 0x23
  | .zeroPage => some 0x27
  | .absolute => some 0x2F
  | .indirectY => some 0x33
  | .zeroPageX => some 0x37
  | .absoluteY => some 0x3B
  | .absoluteX => some 0x3F
  | _ => none

/-- *SRE (R153). -/
def sreUOpcode : Mode → Option Byte
  | .indirectX => some 0x43
  | .zeroPage => some 0x47
  | .absolute => some 0x4F
  | .indirectY => some 0x53
  | .zeroPageX => some 0x57
  | .absoluteY => some 0x5B
  | .absoluteX => some 0x5F
  | _ => none

/-- *RRA (R154). -/
def rraUOpcode : Mode → Option Byte
  | .indirectX => some 0x63
  | .zeroPage => some 0x67
  | .absolute => some 0x6F
  | .indirectY => some 0x73
  | .zeroPageX => some 0x77
  | .absoluteY => some 0x7B
  | .absoluteX => some 0x7F
  | _ => none

/-- The opcode byte of an instruction, `none` for a term that is no instruction of the table. -/
def Instr.opcode : Instr → Option Byte
  | .lda m => ldaOpcode m
  | .ldx m => ldxOpcode m
  | .ldy m => ldyOpcode m
  | .sta m => staOpcode m
  | .stx m => stxOpcode m
  | .sty m => styOpcode m
  | .tax => some 0xAA
  | .tay => some 0xA8
  | .txa => some 0x8A
  | .tya => some 0x98
  | .tsx => some 0xBA
  | .txs => some 0x9A
  | .adc m => adcOpcode m
  | .sbc m => sbcOpcode m
  | .and m => andOpcode m
  | .ora m => oraOpcode m
  | .eor m => eorOpcode m
  | .bit m => bitOpcode m
  | .cmp m => cmpOpcode m
  | .cpx m => cpxOpcode m
  | .cpy m => cpyOpcode m
  | .inc m => incOpcode m
  | .dec m => decOpcode m
  | .inx => some 0xE8
  | .iny => some 0xC8
  | .dex => some 0xCA
  | .dey => some 0x88
  | .asl m => aslOpcode m
  | .lsr m => lsrOpcode m
  | .rol m => rolOpcode m
  | .ror m => rorOpcode m
  | .jmp m => jmpOpcode m
  | .jsr => some 0x20
  | .rts => some 0x60
  | .bcc => some 0x90
  | .bcs => some 0xB0
  | .beq => some 0xF0
  | .bne => some 0xD0
  | .bmi => some 0x30
  | .bpl => some 0x10
  | .bvc => some 0x50
  | .bvs => some 0x70
  | .pha => some 0x48
  | .php => some 0x08
  | .pla => some 0x68
  | .plp => some 0x28
  | .clc => some 0x18
  | .sec => some 0x38
  | .cli => some 0x58
  | .sei => some 0x78
  | .cld => some 0xD8
  | .sed => some 0xF8
  | .clv => some 0xB8
  | .nop => some 0xEA
  | .brk => some 0x00
  | .rti => some 0x40
  | .nopU op => if nopUOpcodes.contains op then some op else none
  | .laxU m => laxUOpcode m
  | .saxU m => saxUOpcode m
  | .sbcU => some 0xEB
  | .dcpU m => dcpUOpcode m
  | .iscU m => iscUOpcode m
  | .sloU m => sloUOpcode m
  | .rlaU m => rlaUOpcode m
  | .sreU m => sreUOpcode m
  | .rraU m => rraUOpcode m
  | .illegal op => if illegalOpcodes.contains op then some op else none

/-- The descriptor of an instruction, `none` for a term that is no instruction of the table. -/
def Instr.descriptor (i : Instr) : Option Descriptor := i.opcode.map lookup

/-- The bytes of a whole instruction, in address order (30_encoding.md R53); empty if it is not well formed. -/
def encode (e : Encoded) : List Byte :=
  if e.wf then
    match e.instr.opcode with
    | some op => op :: e.operand.toList
    | none => []
  else []

/-- The three bytes that hold an instruction of at most three bytes given as a number, its first byte lowest. -/
def tableBytes (nbits w : Nat) : List Byte :=
  let v := w % 2 ^ nbits
  [BitVec.ofNat 8 v, BitVec.ofNat 8 (v / 0x100), BitVec.ofNat 8 (v / 0x10000)]

/-- The instruction this decoder reads from bits numbered as spec/opcode_table.json numbers them, the bits above
`nbits` zero. -/
def decodeTableWord (nbits w : Nat) : Option Instr :=
  match decodeBytes (tableBytes nbits w) with
  | .ok (e, _) => some e.instr
  | .error _ => none

end Sys2Proof
end

