-- ==== Sys2Proof/Machine/Bits.lean ====
section
/-! DEFINITION. The notation of 00_scope.md R8 (lo, hi, cat, zext_16, sext_16) and the single-byte bit container of
10_state.md R19. -/

namespace Sys2Proof.Machine

/-- `lo(w) = w[7:0]` (00_scope.md R8). -/
def lo (w : Word) : Byte := w.extractLsb' 0 8

/-- `hi(w) = w[15:8]` (00_scope.md R8). -/
def hi (w : Word) : Byte := w.extractLsb' 8 8

/-- `cat(h, l) = h * 0x100 + l` (00_scope.md R8). -/
def cat (h l : Byte) : Word := h ++ l

/-- `zext_16(b)` (00_scope.md R8). -/
def zext16 (b : Byte) : Word := b.setWidth 16

/-- `sext_16(b)` (00_scope.md R8). -/
def sext16 (b : Byte) : Word := b.signExtend 16

/-- The address after `a` in the same page: the low byte wraps, the high byte stays (20_memory.md R38). -/
def nextInPage (a : Word) : Word := cat (hi a) (lo a + 1)

/-- Bit `i` of a byte container (10_state.md R19, get). -/
def getBit (v : Byte) (i : Nat) : Bool := v.getLsbD i

/-- The byte with only bit `i` set. -/
def bitMask (i : Nat) : Byte := (1 : Byte) <<< i

/-- Bit `i` set (10_state.md R19, set). -/
def setBit (v : Byte) (i : Nat) : Byte := v ||| bitMask i

/-- Bit `i` cleared (10_state.md R19, clear). -/
def clearBit (v : Byte) (i : Nat) : Byte := v &&& ~~~(bitMask i)

/-- Bit `i` set or cleared; every other bit stays (10_state.md R19). -/
def putBit (v : Byte) (i : Nat) (b : Bool) : Byte := if b then setBit v i else clearBit v i

end Sys2Proof.Machine
end

