-- ==== Sys2Proof/Machine/State.lean ====
section
/-! DEFINITION. The machine's state as plain data: the CPU record (10_state.md R14), the bus state (20_memory.md
R28), the launch parameters the rules read (00_scope.md R6), the faults of 60_exceptions.md R156, and the state after
power-on (70_reset_and_hazards.md R174). -/

namespace Sys2Proof.Machine

/-- The bytes of RAM or of the program ROM by device offset, in one canonical form: offsets strictly rising, and no
entry equal to what an unlisted offset reads as (`Config.unlistedByte`). -/
abbrev Memory := List Host.Cell

/-- The canonical form of a `Memory` whose offsets lie below `size`, above an exclusive lower bound if there is one. -/
def Memory.wfFrom (size : Nat) : Option Nat → Memory → Bool
  | _, [] => true
  | below, (k, v) :: rest =>
    (match below with
      | none => true
      | some b => decide (b < k)) &&
    decide (k < size) && decide (v ≠ Config.unlistedByte) && Memory.wfFrom size (some k) rest

/-- The canonical form of a `Memory` whose offsets lie below `size`. -/
def Memory.wf (size : Nat) (m : Memory) : Bool := Memory.wfFrom size none m

/-- `PRG_BANKS`: 1 or 2; no other count can be built (70_reset_and_hazards.md R175). -/
inductive Banks
  | one | two
  deriving DecidableEq, Repr

/-- A biased byte register (20_memory.md R43). -/
structure BiasedReg where
  value : Byte
  force0 : Byte
  force1 : Byte
  deriving DecidableEq, Repr

/-- A register-block device, `PPU_DEV` or `IO_DEV` (20_memory.md R29, R32). -/
inductive RegBlock
  /-- Any device at all: its state is the list of accesses made to it, newest first, and its replies are the
  opaque functions of Config.lean. Log entry 2. -/
  | external (events : List DeviceEvent)
  /-- A block of biased byte registers (20_memory.md R43), the stand-in of D22. Log entry 3. -/
  | registers (regs : List BiasedReg)
  deriving DecidableEq, Repr

/-- The optional `MAPPER` device (20_memory.md R28, R33). -/
inductive Mapper
  /-- No mapper is installed. -/
  | absent
  /-- The mapper of D20: `load(o) = PRG[o]`, and a store that faults ReadOnly. -/
  | prgMirror
  /-- Any mapper at all, as `RegBlock.external`. Log entry 2. -/
  | external (events : List DeviceEvent)
  deriving DecidableEq, Repr

/-- The state of the machine. -/
structure State where
  /-- PC, the address of the next opcode between steps (10_state.md R16). -/
  pc : Word
  /-- SP, the offset into the stack page (10_state.md R17). -/
  sp : Byte
  /-- The accumulator (10_state.md R15). -/
  a : Byte
  /-- Index register X (10_state.md R15). -/
  x : Byte
  /-- Index register Y (10_state.md R15). -/
  y : Byte
  /-- The status byte P (10_state.md R18). -/
  p : Byte
  /-- The cycle counter CYC (10_state.md R23). -/
  cyc : Nat
  /-- Internal RAM by offset, 0x800 bytes (20_memory.md R28, R30). -/
  ram : Memory
  /-- Program ROM by offset (20_memory.md R28, R31). -/
  prg : Memory
  /-- `PRG_BANKS`, which fixes `ROM_OFFSET` (00_scope.md R6). -/
  banks : Banks
  /-- `PPU_DEV` (20_memory.md R28). -/
  ppu : RegBlock
  /-- `IO_DEV` (20_memory.md R28). -/
  io : RegBlock
  /-- `MAPPER` (20_memory.md R28). -/
  mapper : Mapper
  /-- `OPERAND_WRAP`, a launch parameter (40_engine.md R73). -/
  operandWrap : Bool
  /-- `INT_CYCLES`, a launch parameter (60_exceptions.md R161). -/
  intCycles : Nat
  /-- `CYC_RESET`, a launch parameter (70_reset_and_hazards.md R173). -/
  cycReset : Nat
  deriving DecidableEq, Repr

/-- `MemoryError` and its subkinds with the value each records (60_exceptions.md R156). -/
inductive MemoryError
  /-- Any bus access to 0x4018-0x7FFF (20_memory.md R33). -/
  | unmapped (addr : Word)
  /-- Any bus access to 0x8000-0xBFFF with one bank and no mapper (20_memory.md R33). -/
  | mapperMissing (addr : Word)
  /-- A device given an offset beyond its size (20_memory.md R37). -/
  | offsetOutOfRange (addr : Word)
  /-- A push at SP = 0x00 (20_memory.md R40). -/
  | stackOverflow (sp : Byte)
  /-- A pop at SP = 0xFF (20_memory.md R41). -/
  | stackUnderflow (sp : Byte)
  /-- A store to the ROM window, or one a register device refuses (20_memory.md R31, R32). -/
  | readOnly (addr : Word)
  /-- Any other fault a register device defines (20_memory.md R32). Log entry 13. -/
  | device (addr : Word) (k : Nat)
  deriving DecidableEq, Repr

/-- `IllegalInstruction` and its subkinds with the value each records (60_exceptions.md R156). -/
inductive IllegalInstruction
  /-- Executing an opcode with the Illegal descriptor (46_unofficial.md R155). -/
  | noHandler (opcode : Byte)
  /-- Resolving the Implied, Illegal or Unknown mode (40_engine.md R72). -/
  | invalidMode (mode : Mode)
  deriving DecidableEq, Repr

/-- `CartridgeError`, raised when the bus is built, never by a step (70_reset_and_hazards.md R175, D33). -/
inductive CartridgeError
  /-- `PRG_BANKS` is not 1 or 2. -/
  | bankCount
  /-- `len(PRG) ≠ 0x4000 × PRG_BANKS`. -/
  | prgLength
  deriving DecidableEq, Repr

/-- What a primitive raises inside a step: a fault without the state it leaves. -/
inductive Cause
  | memory (e : MemoryError)
  | illegal (e : IllegalInstruction)
  deriving DecidableEq, Repr

/-- A fault returned to the host: the error and the state at the failing access, earlier writes done and later ones not
(60_exceptions.md R157, R158). It is terminal: no step is defined from that state. Log entry 9. -/
inductive Fault
  /-- Raised by a bus access or a stack primitive of any step, `peek`, `irq` or `nmi` (60_exceptions.md R156). Safe:
  the spec itself ends the run here. -/
  | memory (e : MemoryError) (final : State)
  /-- `noHandler` is raised by `execIllegal` alone; `invalidMode` by `resolve`, which no table row reaches
  (60_exceptions.md R156). Safe: the spec itself ends the run here. -/
  | illegal (e : IllegalInstruction) (final : State)
  deriving DecidableEq, Repr

/-- The fault a cause becomes at a state. -/
def Cause.toFault (c : Cause) (final : State) : Fault :=
  match c with
  | .memory e => .memory e final
  | .illegal e => .illegal e final

/-- Why the model gives no outcome. -/
inductive Refusal
  /-- An instruction without a meaning yet; raised only by an arm of `exec`. Safe. -/
  | notModelled (mnemonic : String)
  /-- The term of `Instr` is no instruction of the table (a mode its mnemonic lacks); raised by `exec` on such a term
  alone, never by a step. Safe. Log entry 11. -/
  | illFormed
  deriving DecidableEq, Repr

/-- A computation of one step: it reads and changes the state and may raise a fault (00_scope.md R10, R11). -/
abbrev M (α : Type) := EStateM Cause State α

/-- The machine right after power-on and reset (10_state.md R26, 70_reset_and_hazards.md R174), with the launch inputs of
log entries 2 to 8: one bank of unlisted bytes, no mapper, external register blocks, RAM unlisted. -/
def State.reset : State where
  pc := Config.resetPc
  sp := Config.resetSp
  a := Config.resetReg
  x := Config.resetReg
  y := Config.resetReg
  p := Config.resetP
  cyc := Config.defaultCycReset
  ram := []
  prg := []
  banks := .one
  ppu := .external []
  io := .external []
  mapper := .absent
  operandWrap := Config.defaultOperandWrap
  intCycles := Config.defaultIntCycles
  cycReset := Config.defaultCycReset

end Sys2Proof.Machine
end

