-- ==== Sys2Proof/Machine/Biased.lean ====
section
/-! DEFINITION. The biased-bit register utility (20_memory.md R43): registers with grounded or stuck pins. -/

namespace Sys2Proof.Machine

/-- A register with no biased bit. -/
def BiasedReg.plain (v : Byte) : BiasedReg := ⟨v, 0, 0⟩

/-- The value a register may hold under its bias. -/
def BiasedReg.constrain (r : BiasedReg) (v : Byte) : Byte := (v &&& ~~~r.force0) ||| r.force1

/-- `load() -> value`. -/
def BiasedReg.load (r : BiasedReg) : Byte := r.value

/-- `store(v)`. -/
def BiasedReg.store (r : BiasedReg) (v : Byte) : BiasedReg :=
  ⟨r.constrain v, r.force0, r.force1⟩

/-- `set_bit(i)`. -/
def BiasedReg.setBit (r : BiasedReg) (i : Fin 8) : BiasedReg :=
  ⟨r.constrain (Machine.setBit r.value i), r.force0, r.force1⟩

/-- `clear_bit(i)`. -/
def BiasedReg.clearBit (r : BiasedReg) (i : Fin 8) : BiasedReg :=
  ⟨r.constrain (Machine.clearBit r.value i), r.force0, r.force1⟩

/-- `bias(i, 0)` and `bias(i, 1)`: a later bias of a bit replaces its earlier one, and none is removed (D41). -/
def BiasedReg.bias (r : BiasedReg) (i : Fin 8) (high : Bool) : BiasedReg :=
  if high then
    ⟨Machine.setBit r.value i, Machine.clearBit r.force0 i, Machine.setBit r.force1 i⟩
  else
    ⟨Machine.clearBit r.value i, Machine.setBit r.force0 i, Machine.clearBit r.force1 i⟩

/-- What every operation keeps: no bit is forced both ways, and the value obeys the bias. -/
def BiasedReg.wf (r : BiasedReg) : Bool :=
  r.force0 &&& r.force1 == 0 && r.constrain r.value == r.value

end Sys2Proof.Machine
end

