-- ==== Sys2Proof/Machine/Bus.lean ====
section
/-! DEFINITION. The canonical memory, the devices, the router, and the bus's 8-bit and 16-bit accesses
(20_memory.md R27 to R39). -/

namespace Sys2Proof.Machine

/-- The byte at an offset. -/
def Memory.read : Memory → Nat → Byte
  | [], _ => Config.unlistedByte
  | (k, v) :: rest, o => if k = o then v else Memory.read rest o

/-- The memory with one byte written, in canonical form. -/
def Memory.write : Memory → Nat → Byte → Memory
  | [], o, b => if b = Config.unlistedByte then [] else [(o, b)]
  | (k, v) :: rest, o, b =>
    if o < k then
      if b = Config.unlistedByte then (k, v) :: rest else (o, b) :: (k, v) :: rest
    else if o = k then
      if b = Config.unlistedByte then rest else (o, b) :: rest
    else (k, v) :: Memory.write rest o b

/-- The memory that holds a list of bytes from an offset on. -/
def Memory.ofBytes : List Byte → Nat → Memory
  | [], _ => []
  | b :: rest, o =>
    if b = Config.unlistedByte then Memory.ofBytes rest (o + 1) else (o, b) :: Memory.ofBytes rest (o + 1)

/-- The size of the program ROM, 0x4000 × `PRG_BANKS` (00_scope.md R6). -/
def Banks.prgSize : Banks → Nat
  | .one => Config.bankSize
  | .two => 2 * Config.bankSize

/-- `ROM_OFFSET` (00_scope.md R6). -/
def Banks.romOffset : Banks → Nat
  | .one => 0xC000
  | .two => 0x8000

/-- Whether a mapper is installed. -/
def Mapper.present : Mapper → Bool
  | .absent => false
  | .prgMirror => true
  | .external _ => true

/-- The devices of the bus (20_memory.md R28, R33). -/
inductive DeviceId
  | ram | ppu | io | rom | mapper
  deriving DecidableEq, Repr

/-- The router: each address goes to exactly one device and offset, or to a fault; the regions are tried in this
order (20_memory.md R33). -/
def route (banks : Banks) (hasMapper : Bool) (a : Word) : Except MemoryError (DeviceId × Nat) :=
  if a.toNat ≤ 0x1FFF then .ok (.ram, a.toNat % 0x0800)
  else if a.toNat ≤ 0x3FFF then .ok (.ppu, a.toNat % 8)
  else if a.toNat ≤ 0x4017 then .ok (.io, a.toNat - 0x4000)
  else if banks.romOffset ≤ a.toNat then .ok (.rom, a.toNat - banks.romOffset)
  else if banks = .one ∧ 0x8000 ≤ a.toNat ∧ a.toNat ≤ 0xBFFF then
    if hasMapper then .ok (.mapper, a.toNat - 0x8000) else .error (.mapperMissing a)
  else .error (.unmapped a)

/-- The router of a state's bus. -/
def State.route (s : State) (a : Word) : Except MemoryError (DeviceId × Nat) :=
  Machine.route s.banks s.mapper.present a

/-- The RAM device's load (20_memory.md R30). -/
def ramLoad (ram : Memory) (o : Nat) : Except LoadError Byte :=
  if o < Config.ramSize then .ok (ram.read o) else .error .offsetOutOfRange

/-- The RAM device's store (20_memory.md R30). -/
def ramStore (ram : Memory) (o : Nat) (v : Byte) : Except StoreError Memory :=
  if o < Config.ramSize then .ok (ram.write o v) else .error .offsetOutOfRange

/-- The ROM device's load (20_memory.md R31). -/
def romLoad (banks : Banks) (prg : Memory) (o : Nat) : Except LoadError Byte :=
  if o < banks.prgSize then .ok (prg.read o) else .error .offsetOutOfRange

/-- The ROM device's store: it refuses and changes nothing (20_memory.md R31, D21); an offset beyond the device
is the other error of R31. -/
def romStore (banks : Banks) (o : Nat) : StoreError :=
  if o < banks.prgSize then .readOnly else .offsetOutOfRange

/-- A register block's load (20_memory.md R32). An external device sees every access, refused or not. -/
def RegBlock.load (name : DeviceName) (d : RegBlock) (o : Nat) : Except LoadError Byte × RegBlock :=
  match d with
  | .external events => (Config.externalLoad name events o, .external (.load o :: events))
  | .registers regs =>
    match regs[o]? with
    | some r => (.ok r.load, d)
    | none => (.error .offsetOutOfRange, d)

/-- A register block's store (20_memory.md R32). -/
def RegBlock.store (name : DeviceName) (d : RegBlock) (o : Nat) (v : Byte) : Except StoreError Unit × RegBlock :=
  match d with
  | .external events => (Config.externalStore name events o v, .external (.store o v :: events))
  | .registers regs =>
    match regs[o]? with
    | some r => (.ok (), .registers (regs.set o (r.store v)))
    | none => (.error .offsetOutOfRange, d)

/-- The mapper's load: D20's mirror reads the program ROM (20_memory.md R33). An absent mapper has no offsets; the
router never sends an access to it. -/
def Mapper.load (banks : Banks) (prg : Memory) (d : Mapper) (o : Nat) : Except LoadError Byte × Mapper :=
  match d with
  | .absent => (.error .offsetOutOfRange, d)
  | .prgMirror => (romLoad banks prg o, d)
  | .external events => (Config.externalLoad .mapper events o, .external (.load o :: events))

/-- The mapper's store: D20's mirror refuses it. -/
def Mapper.store (banks : Banks) (d : Mapper) (o : Nat) (v : Byte) : Except StoreError Unit × Mapper :=
  match d with
  | .absent => (.error .offsetOutOfRange, d)
  | .prgMirror => (.error (romStore banks o), d)
  | .external events => (Config.externalStore .mapper events o v, .external (.store o v :: events))

/-- One device's `load(offset)`: its reply, and the state it leaves (20_memory.md R29). -/
def deviceLoad (d : DeviceId) (o : Nat) (s : State) : Except LoadError Byte × State :=
  match d with
  | .ram => (ramLoad s.ram o, s)
  | .ppu => ((s.ppu.load .ppu o).1, { s with ppu := (s.ppu.load .ppu o).2 })
  | .io => ((s.io.load .io o).1, { s with io := (s.io.load .io o).2 })
  | .rom => (romLoad s.banks s.prg o, s)
  | .mapper => ((s.mapper.load s.banks s.prg o).1, { s with mapper := (s.mapper.load s.banks s.prg o).2 })

/-- One device's `store(offset, v)`: whether it took the byte, and the state it leaves (20_memory.md R29). -/
def deviceStore (d : DeviceId) (o : Nat) (v : Byte) (s : State) : Except StoreError Unit × State :=
  match d with
  | .ram =>
    match ramStore s.ram o v with
    | .ok ram => (.ok (), { s with ram := ram })
    | .error e => (.error e, s)
  | .ppu => ((s.ppu.store .ppu o v).1, { s with ppu := (s.ppu.store .ppu o v).2 })
  | .io => ((s.io.store .io o v).1, { s with io := (s.io.store .io o v).2 })
  | .rom => (.error (romStore s.banks o), s)
  | .mapper => ((s.mapper.store s.banks o v).1, { s with mapper := (s.mapper.store s.banks o v).2 })

/-- The `MemoryError` of a refused load at an address (60_exceptions.md R156). -/
def loadFault (e : LoadError) (a : Word) : MemoryError :=
  match e with
  | .offsetOutOfRange => .offsetOutOfRange a
  | .other k => .device a k

/-- The `MemoryError` of a refused store at an address (60_exceptions.md R156). -/
def storeFault (e : StoreError) (a : Word) : MemoryError :=
  match e with
  | .readOnly => .readOnly a
  | .offsetOutOfRange => .offsetOutOfRange a
  | .other k => .device a k

/-- `raise`: the computation ends here (00_scope.md R11). -/
def raise {α : Type} (c : Cause) : M α := fun s => .error c s

/-- `Bus.load(a)` = `MemRead(a, 1)` (20_memory.md R35). -/
def busLoad (a : Word) : M Byte := fun s =>
  match s.route a with
  | .error e => .error (.memory e) s
  | .ok (d, o) =>
    match deviceLoad d o s with
    | (.ok v, t) => .ok v t
    | (.error e, t) => .error (.memory (loadFault e a)) t

/-- `Bus.store(a, v)` = `MemWrite(a, 1, v)` (20_memory.md R36). -/
def busStore (a : Word) (v : Byte) : M Unit := fun s =>
  match s.route a with
  | .error e => .error (.memory e) s
  | .ok (d, o) =>
    match deviceStore d o v s with
    | (.ok (), t) => .ok () t
    | (.error e, t) => .error (.memory (storeFault e a)) t

/-- `Bus.load16(a)` = `MemRead(a, 2)`: low byte first, the high byte's address in the same page (20_memory.md R38). -/
def busLoad16 (a : Word) : M Word := do
  let l ← busLoad a
  let h ← busLoad (nextInPage a)
  pure (cat h l)

/-- `Bus.store16(a, v)` = `MemWrite(a, 2, v)`: low byte first (20_memory.md R39). No instruction uses it. -/
def busStore16 (a : Word) (v : Word) : M Unit := do
  busStore a (lo v)
  busStore (nextInPage a) (hi v)

end Sys2Proof.Machine
end

