-- ==== Sys2Proof/Machine/Flags.lean ====
section
/-! DEFINITION. The flags of P (10_state.md R18 to R21), the named register updates, and every flag computation the
spec gives: SetZN (40_engine.md R77), AddCarry (42_arith_logic.md R96), Compare (R103), BIT (R102), the increments
(R107, R108), the shifts and rotates (43_shift_rotate.md R113 to R116), the pushed and pulled status images. -/

namespace Sys2Proof.Machine

/-- The flags of P (10_state.md R18). -/
inductive Flag
  | carry | zero | interruptDisable | decimal | break | unused | overflow | negative
  deriving DecidableEq, Repr

/-- The bit of P a flag is (10_state.md R18, D1). -/
def Flag.index : Flag → Nat
  | .carry => 0
  | .zero => 1
  | .interruptDisable => 2
  | .decimal => 3
  | .break => 4
  | .unused => 5
  | .overflow => 6
  | .negative => 7

/-- A flag of a status byte. -/
def flagOf (p : Byte) (f : Flag) : Bool := getBit p f.index

/-- A status byte with one flag written; every other bit stays (10_state.md R19). -/
def putFlag (p : Byte) (f : Flag) (b : Bool) : Byte := putBit p f.index b

/-- `PC <- v`. -/
def State.setPc (s : State) (v : Word) : State := { s with pc := v }

/-- `SP <- v`. -/
def State.setSp (s : State) (v : Byte) : State := { s with sp := v }

/-- `A <- v`. -/
def State.setA (s : State) (v : Byte) : State := { s with a := v }

/-- `X <- v`. -/
def State.setX (s : State) (v : Byte) : State := { s with x := v }

/-- `Y <- v`. -/
def State.setY (s : State) (v : Byte) : State := { s with y := v }

/-- `P <- v`, the whole byte. -/
def State.setP (s : State) (v : Byte) : State := { s with p := v }

/-- `CYC <- CYC + n`. -/
def State.addCycles (s : State) (n : Nat) : State := { s with cyc := s.cyc + n }

/-- The RAM replaced. -/
def State.setRam (s : State) (ram : Memory) : State := { s with ram := ram }

/-- A single flag of P. -/
def State.flag (s : State) (f : Flag) : Bool := flagOf s.p f

/-- A single flag of P written: `P.f <- b`. -/
def State.setFlag (s : State) (f : Flag) (b : Bool) : State := s.setP (putFlag s.p f b)

/-- P with Z and N from a result byte (40_engine.md R77). -/
def znFlags (p r : Byte) : Byte := putFlag (putFlag p .zero (r == 0)) .negative (getBit r 7)

/-- `SetZN(r)` (40_engine.md R77). -/
def State.setZN (s : State) (r : Byte) : State := s.setP (znFlags s.p r)

/-- The exact sum `A + m + P.C` of AddCarry, 0 to 0x1FF (42_arith_logic.md R96). -/
def carrySum (a m : Byte) (c : Bool) : Nat := a.toNat + m.toNat + c.toNat

/-- The result byte of AddCarry (42_arith_logic.md R96). -/
def carryResult (a m : Byte) (c : Bool) : Byte := BitVec.ofNat 8 (carrySum a m c)

/-- The overflow of AddCarry: operands of equal sign, result of the other sign (42_arith_logic.md R96). -/
def carryOverflow (a m r : Byte) : Bool := ((a ^^^ r) &&& (m ^^^ r) &&& 0x80) != 0

/-- `AddCarry(m)`; P.D is never looked at (42_arith_logic.md R96, 10_state.md R22). -/
def State.addCarry (s : State) (m : Byte) : State :=
  let r := carryResult s.a m (s.flag .carry)
  let p := putFlag s.p .carry (decide (0xFF < carrySum s.a m (s.flag .carry)))
  let p := putFlag p .overflow (carryOverflow s.a m r)
  ((s.setP p).setA r).setZN r

/-- The 16-bit difference of Compare (42_arith_logic.md R103). -/
def compareDiff (reg m : Byte) : Word := zext16 reg - zext16 m

/-- `Compare(reg, m)`: no register is written (42_arith_logic.md R103). -/
def State.compare (s : State) (reg m : Byte) : State :=
  let d := compareDiff reg m
  let p := putFlag s.p .carry (decide (d < 0x100))
  let p := putFlag p .zero (reg == m)
  s.setP (putFlag p .negative (d.getLsbD 7))

/-- The flags of BIT: Z from A & m, V and N from m (42_arith_logic.md R102). -/
def State.bitTest (s : State) (m : Byte) : State :=
  let p := putFlag s.p .zero (s.a &&& m == 0)
  let p := putFlag p .overflow (getBit m 6)
  s.setP (putFlag p .negative (getBit m 7))

/-- INC's function for Modify (42_arith_logic.md R107). -/
def incByte (v : Byte) (s : State) : Byte × State := (v + 1, s.setZN (v + 1))

/-- DEC's function for Modify (42_arith_logic.md R108). -/
def decByte (v : Byte) (s : State) : Byte × State := (v - 1, s.setZN (v - 1))

/-- ASL's function for Modify (43_shift_rotate.md R113). -/
def aslByte (v : Byte) (s : State) : Byte × State :=
  let r := v <<< 1
  (r, (s.setFlag .carry (getBit v 7)).setZN r)

/-- LSR's function for Modify (43_shift_rotate.md R114). -/
def lsrByte (v : Byte) (s : State) : Byte × State :=
  let r := v >>> 1
  (r, (s.setFlag .carry (getBit v 0)).setZN r)

/-- The result of ROL: the old carry enters at bit 0 (43_shift_rotate.md R115). -/
def rolResult (v : Byte) (c : Bool) : Byte := (v <<< 1) ||| (if c then 1 else 0)

/-- ROL's function for Modify (43_shift_rotate.md R115). -/
def rolByte (v : Byte) (s : State) : Byte × State :=
  let r := rolResult v (s.flag .carry)
  (r, (s.setFlag .carry (getBit v 7)).setZN r)

/-- The result of ROR: the old carry enters at bit 7 (43_shift_rotate.md R116). -/
def rorResult (v : Byte) (c : Bool) : Byte := (v >>> 1) ||| (if c then 0x80 else 0)

/-- ROR's function for Modify (43_shift_rotate.md R116). -/
def rorByte (v : Byte) (s : State) : Byte × State :=
  let r := rorResult v (s.flag .carry)
  (r, (s.setFlag .carry (getBit v 0)).setZN r)

/-- The status image PHP and BRK push: Break and unused set (45_stack_flags_system.md R131, D10). -/
def pushedBreak (p : Byte) : Byte := p ||| 0x30

/-- The status image IRQ and NMI push: Break clear, unused set (60_exceptions.md R160, D10). -/
def pushedInterrupt (p : Byte) : Byte := (p &&& 0xEF) ||| 0x20

/-- P after PLP or RTI pops `v`: bits 4 and 5 stay (45_stack_flags_system.md R133, R143, D9). -/
def pulledStatus (p v : Byte) : Byte := (v &&& 0xCF) ||| (p &&& 0x30)

end Sys2Proof.Machine
end

