-- ==== Sys2Proof/Machine/Ops.lean ====
section
/-! DEFINITION. The shared operations of a step: the engine's advance (40_engine.md R68), the stack primitives
(20_memory.md R40, R41), the interrupt entry (60_exceptions.md R160, R161) and the return beside it
(45_stack_flags_system.md R143), the fetch, and how a computation becomes an outcome. -/

namespace Sys2Proof.Machine

/-- A change of the state that raises nothing. -/
def update (f : State → State) : M Unit := fun s => .ok () (f s)

/-- The state read. -/
def readState : M State := fun s => .ok s s

/-- The address SP designates, `0x0100 + SP` (10_state.md R17). -/
def stackAddr (sp : Byte) : Word := Config.stackBase + zext16 sp

/-- `Push(v)`: the check, the write, then the decrement (20_memory.md R40). -/
def push (v : Byte) : M Unit := do
  let s ← readState
  if s.sp = 0x00 then raise (.memory (.stackOverflow s.sp))
  else do
    busStore (stackAddr s.sp) v
    update fun t => t.setSp (t.sp - 1)

/-- `Pop()`: the check, the increment, then the read (20_memory.md R41). -/
def pop : M Byte := do
  let s ← readState
  if s.sp = 0xFF then raise (.memory (.stackUnderflow s.sp))
  else do
    update fun t => t.setSp (t.sp + 1)
    busLoad (stackAddr (s.sp + 1))

/-- A 16-bit value pushed high byte first, so that its low byte lands at the lower address (90_conflicts.md C7). -/
def pushWord (w : Word) : M Unit := do
  push (hi w)
  push (lo w)

/-- A 16-bit value popped low byte first. -/
def popWord : M Word := do
  let l ← pop
  let h ← pop
  pure (cat h l)

/-- TAKING AN INTERRUPT: the shared entry sequence `IntSeq(ret, brk, vec)` (60_exceptions.md R160). P itself keeps
Break (D11). -/
def intSeq (ret : Word) (brk : Bool) (vec : Word) : M Unit := do
  pushWord ret
  let s ← readState
  push (if brk then pushedBreak s.p else pushedInterrupt s.p)
  update fun t => t.setFlag .interruptDisable true
  let target ← busLoad16 vec
  update fun t => t.setPc target

/-- `TakeInterrupt(vec)` of IRQ and NMI: the entry, then `INT_CYCLES` (60_exceptions.md R161). -/
def takeInterrupt (vec : Word) : M Unit := do
  let s ← readState
  intSeq s.pc false vec
  update fun t => t.addCycles t.intCycles

/-- P popped with bits 4 and 5 kept (45_stack_flags_system.md R133; R143's first half). -/
def popStatus : M Unit := do
  let v ← pop
  update fun t => t.setP (pulledStatus t.p v)

/-- THE RETURN FROM AN INTERRUPT (45_stack_flags_system.md R143): status, then the exact return address. -/
def returnSeq : M Unit := do
  popStatus
  let target ← popWord
  update fun t => t.setPc target

/-- The engine's advance before the handler runs: `PC` past the instruction, base cycles added (40_engine.md R68). -/
def State.advance (s : State) (d : Descriptor) : State :=
  (s.setPc (s.pc + BitVec.ofNat 16 d.length)).addCycles d.cycles

/-- A finished computation as an outcome (40_engine.md R69, 60_exceptions.md R158). -/
def outcome : EStateM.Result Cause State Unit → Host.Outcome State Fault Refusal
  | .ok () t => .next t
  | .error c t => .fault (c.toFault t)

/-- One instruction after its opcode is fetched: the advance, then its handler with its descriptor
(40_engine.md R68). A term that is no instruction of the table is refused (log entry 11). -/
def runInstr (i : Instr) (handler : Descriptor → M Unit) (s : State) : Host.Outcome State Fault Refusal :=
  match i.descriptor with
  | some d => outcome (handler d (s.advance d))
  | none => .refused .illFormed

/-- The opcode fetch and its lookup; "a fault here leaves every register unchanged" (40_engine.md R68). -/
def fetch : M Instr := do
  let s ← readState
  let op ← busLoad s.pc
  pure (decode op)

end Sys2Proof.Machine
end

