-- ==== Sys2Proof/Machine/Operands.lean ====
section
/-! DEFINITION. The addressing-mode resolver, its page-cross penalty and the operand helpers (40_engine.md R71 to
R76). PC is the advanced PC throughout. -/

namespace Sys2Proof.Machine

/-- The cycles `Penalty(r, src)` adds: one exactly when the descriptor is flagged and the pages differ
(40_engine.md R71). -/
def penaltyCycles (d : Descriptor) (r src : Word) : Nat :=
  if d.canCrossPage ∧ hi r ≠ hi src then 1 else 0

/-- `Penalty(r, src)` (40_engine.md R71). -/
def penalty (d : Descriptor) (r src : Word) : M Unit := update fun s => s.addCycles (penaltyCycles d r src)

/-- The one-byte operand at `PC−1` (40_engine.md R72). -/
def operand8 : M Byte := do
  let s ← readState
  busLoad (s.pc - 1)

/-- `Operand16()`: the two-byte operand at `PC−2`, read with the same-page wrap when `OPERAND_WRAP` holds
(40_engine.md R72, R73). -/
def operand16 : M Word := do
  let s ← readState
  if s.operandWrap then busLoad16 (s.pc - 2)
  else do
    let l ← busLoad (s.pc - 2)
    let h ← busLoad (s.pc - 1)
    pure (cat h l)

/-- An indexed address with its penalty: `r <- wrap16(base + index); Penalty(r, wrap16(r − index))`
(40_engine.md R71, R72). -/
def indexed (d : Descriptor) (base : Word) (index : Byte) : M Word := do
  let r := base + zext16 index
  penalty d r (r - zext16 index)
  pure r

/-- `resolve(mode) -> u16`: an address, or the operand itself for Accumulator and Immediate (40_engine.md R72). -/
def resolve (d : Descriptor) : M Word :=
  match d.mode with
  | .accumulator => do
    let s ← readState
    pure (zext16 s.a)
  | .immediate => do
    let b ← operand8
    pure (zext16 b)
  | .zeroPage => do
    let b ← operand8
    pure (zext16 b)
  | .zeroPageX => do
    let b ← operand8
    let s ← readState
    pure (zext16 (b + s.x))
  | .zeroPageY => do
    let b ← operand8
    let s ← readState
    pure (zext16 (b + s.y))
  | .absolute => operand16
  | .absoluteX => do
    let base ← operand16
    let s ← readState
    indexed d base s.x
  | .absoluteY => do
    let base ← operand16
    let s ← readState
    indexed d base s.y
  | .indirect => do
    let p ← operand16
    busLoad16 p
  | .indirectX => do
    let b ← operand8
    let s ← readState
    busLoad16 (zext16 (b + s.x))
  | .indirectY => do
    let p ← operand8
    let base ← busLoad16 (zext16 p)
    let s ← readState
    indexed d base s.y
  | .relative => do
    let b ← operand8
    let s ← readState
    let r := s.pc + sext16 b
    penalty d r s.pc
    pure r
  | .implied => raise (.illegal (.invalidMode .implied))
  | .illegal => raise (.illegal (.invalidMode .illegal))
  | .unknown => raise (.illegal (.invalidMode .unknown))

/-- Whether the resolved value is the operand itself and not an address (40_engine.md R74). -/
def modeIsValue (m : Mode) : Bool := m = .immediate || m = .accumulator

/-- `ReadOperand()`: one resolution and, for a memory mode, one data read (40_engine.md R74). -/
def readOperand (d : Descriptor) : M Byte := do
  let v ← resolve d
  if modeIsValue d.mode then pure (lo v) else busLoad v

/-- `StoreOperand(v)`: one resolution and one store, no read (40_engine.md R75). -/
def storeOperand (d : Descriptor) (v : Byte) : M Unit := do
  let a ← resolve d
  busStore a v

/-- A byte mapped by a function that may write flags. -/
def applyByte (f : Byte → State → Byte × State) (v : Byte) : M Byte := fun s => .ok (f v s).1 (f v s).2

/-- `Modify(f)`: one resolution, one read, the flags, one write (40_engine.md R76). -/
def modifyOperand (d : Descriptor) (f : Byte → State → Byte × State) : M Unit :=
  if d.mode = .accumulator then do
    let s ← readState
    let r ← applyByte f s.a
    update fun t => t.setA r
  else do
    let a ← resolve d
    let v ← busLoad a
    let r ← applyByte f v
    busStore a r

end Sys2Proof.Machine
end

