-- ==== Sys2Proof/Machine/Arith.lean ====
section
/-! DEFINITION. Arithmetic, logic, compare, increment and decrement (42_arith_logic.md R95 to R112). -/

namespace Sys2Proof.Machine

/-- ADC's operation: `m <- ReadOperand(); AddCarry(m)` (R97). -/
def adcOp (d : Descriptor) : M Unit := do
  let m ← readOperand d
  update fun s => s.addCarry m

/-- SBC's operation: `m <- ReadOperand(); AddCarry(m ^ 0xFF)` (R98). -/
def sbcOp (d : Descriptor) : M Unit := do
  let m ← readOperand d
  update fun s => s.addCarry (m ^^^ 0xFF)

/-- AND's operation: `m <- ReadOperand(); A <- A & m; SetZN(A)` (R99). -/
def andOp (d : Descriptor) : M Unit := do
  let m ← readOperand d
  update fun s => (s.setA (s.a &&& m)).setZN (s.a &&& m)

/-- ORA's operation: `m <- ReadOperand(); A <- A | m; SetZN(A)` (R100). -/
def oraOp (d : Descriptor) : M Unit := do
  let m ← readOperand d
  update fun s => (s.setA (s.a ||| m)).setZN (s.a ||| m)

/-- EOR's operation: `m <- ReadOperand(); A <- A ^ m; SetZN(A)` (R101). -/
def eorOp (d : Descriptor) : M Unit := do
  let m ← readOperand d
  update fun s => (s.setA (s.a ^^^ m)).setZN (s.a ^^^ m)

/-- BIT's operation: `m <- ReadOperand()`, then Z from A & m, V and N from m (R102). -/
def bitOp (d : Descriptor) : M Unit := do
  let m ← readOperand d
  update fun s => s.bitTest m

/-- CMP's operation: `m <- ReadOperand(); Compare(A, m)` (R104). -/
def cmpOp (d : Descriptor) : M Unit := do
  let m ← readOperand d
  update fun s => s.compare s.a m

/-- CPX's operation: `m <- ReadOperand(); Compare(X, m)` (R105). -/
def cpxOp (d : Descriptor) : M Unit := do
  let m ← readOperand d
  update fun s => s.compare s.x m

/-- CPY's operation: `m <- ReadOperand(); Compare(Y, m)` (R106). -/
def cpyOp (d : Descriptor) : M Unit := do
  let m ← readOperand d
  update fun s => s.compare s.y m

/-- INC's operation, through Modify (R107). -/
def incOp (d : Descriptor) : M Unit := modifyOperand d incByte

/-- DEC's operation, through Modify (R108). -/
def decOp (d : Descriptor) : M Unit := modifyOperand d decByte

/-- INX's operation: `X <- wrap8(X + 1); SetZN(X)` (R109). -/
def inxOp (_ : Descriptor) : M Unit :=
  update fun s => (s.setX (s.x + 1)).setZN (s.x + 1)

/-- INY's operation: `Y <- wrap8(Y + 1); SetZN(Y)` (R110). -/
def inyOp (_ : Descriptor) : M Unit :=
  update fun s => (s.setY (s.y + 1)).setZN (s.y + 1)

/-- DEX's operation: `X <- wrap8(X - 1); SetZN(X)` (R111). -/
def dexOp (_ : Descriptor) : M Unit :=
  update fun s => (s.setX (s.x - 1)).setZN (s.x - 1)

/-- DEY's operation: `Y <- wrap8(Y - 1); SetZN(Y)` (R112). -/
def deyOp (_ : Descriptor) : M Unit :=
  update fun s => (s.setY (s.y - 1)).setZN (s.y - 1)

/-- ADC: add with carry (R97). -/
def execAdc (m : Mode) (s : State) : Host.Outcome State Fault Refusal :=
  runInstr (.adc m) adcOp s

/-- SBC: subtract with borrow (R98). -/
def execSbc (m : Mode) (s : State) : Host.Outcome State Fault Refusal :=
  runInstr (.sbc m) sbcOp s

/-- AND: bitwise AND into A (R99). -/
def execAnd (m : Mode) (s : State) : Host.Outcome State Fault Refusal :=
  runInstr (.and m) andOp s

/-- ORA: bitwise OR into A (R100). -/
def execOra (m : Mode) (s : State) : Host.Outcome State Fault Refusal :=
  runInstr (.ora m) oraOp s

/-- EOR: bitwise exclusive OR into A (R101). -/
def execEor (m : Mode) (s : State) : Host.Outcome State Fault Refusal :=
  runInstr (.eor m) eorOp s

/-- BIT: test bits (R102). -/
def execBit (m : Mode) (s : State) : Host.Outcome State Fault Refusal :=
  runInstr (.bit m) bitOp s

/-- CMP: compare A (R104). -/
def execCmp (m : Mode) (s : State) : Host.Outcome State Fault Refusal :=
  runInstr (.cmp m) cmpOp s

/-- CPX: compare X (R105). -/
def execCpx (m : Mode) (s : State) : Host.Outcome State Fault Refusal :=
  runInstr (.cpx m) cpxOp s

/-- CPY: compare Y (R106). -/
def execCpy (m : Mode) (s : State) : Host.Outcome State Fault Refusal :=
  runInstr (.cpy m) cpyOp s

/-- INC: increment memory (R107). -/
def execInc (m : Mode) (s : State) : Host.Outcome State Fault Refusal :=
  runInstr (.inc m) incOp s

/-- DEC: decrement memory (R108). -/
def execDec (m : Mode) (s : State) : Host.Outcome State Fault Refusal :=
  runInstr (.dec m) decOp s

/-- INX: increment X (R109). -/
def execInx (s : State) : Host.Outcome State Fault Refusal :=
  runInstr .inx inxOp s

/-- INY: increment Y (R110). -/
def execIny (s : State) : Host.Outcome State Fault Refusal :=
  runInstr .iny inyOp s

/-- DEX: decrement X (R111). -/
def execDex (s : State) : Host.Outcome State Fault Refusal :=
  runInstr .dex dexOp s

/-- DEY: decrement Y (R112). -/
def execDey (s : State) : Host.Outcome State Fault Refusal :=
  runInstr .dey deyOp s

end Sys2Proof.Machine
end

