-- ==== Sys2Proof/Machine/Control.lean ====
section
/-! DEFINITION. Jumps, subroutine calls and branches (44_control.md R117 to R129). -/

namespace Sys2Proof.Machine

/-- JMP's operation: `PC <- resolve(D.mode)` (R117). -/
def jmpOp (d : Descriptor) : M Unit := do
  let target ← resolve d
  update fun s => s.setPc target

/-- JSR's operation: the target is read first, then the address of JSR's last byte is pushed (R118, D46). -/
def jsrOp (d : Descriptor) : M Unit := do
  let target ← resolve d
  let s ← readState
  pushWord (s.pc - 1)
  update fun t => t.setPc target

/-- RTS's operation: the popped address plus one (R119). -/
def rtsOp (_ : Descriptor) : M Unit := do
  let ret ← popWord
  update fun s => s.setPc (ret + 1)

/-- The common branch step `Branch(cond)`, the condition a flag having a value: taken, it adds a cycle and resolves the
target; not taken, it reads no operand (R121, D17). -/
def branchOp (f : Flag) (wanted : Bool) (d : Descriptor) : M Unit := do
  let s ← readState
  if s.flag f = wanted then do
    update fun t => t.addCycles 1
    let target ← resolve d
    update fun t => t.setPc target
  else pure ()

/-- JMP: jump (R117). -/
def execJmp (m : Mode) (s : State) : Host.Outcome State Fault Refusal :=
  runInstr (.jmp m) jmpOp s

/-- JSR: jump to subroutine (R118). -/
def execJsr (s : State) : Host.Outcome State Fault Refusal :=
  runInstr .jsr jsrOp s

/-- RTS: return from subroutine (R119). -/
def execRts (s : State) : Host.Outcome State Fault Refusal :=
  runInstr .rts rtsOp s

/-- BCC: branch if carry clear (R122). -/
def execBcc (s : State) : Host.Outcome State Fault Refusal :=
  runInstr .bcc (branchOp .carry false) s

/-- BCS: branch if carry set (R123). -/
def execBcs (s : State) : Host.Outcome State Fault Refusal :=
  runInstr .bcs (branchOp .carry true) s

/-- BEQ: branch if equal (R124). -/
def execBeq (s : State) : Host.Outcome State Fault Refusal :=
  runInstr .beq (branchOp .zero true) s

/-- BNE: branch if not equal (R125). -/
def execBne (s : State) : Host.Outcome State Fault Refusal :=
  runInstr .bne (branchOp .zero false) s

/-- BMI: branch if minus (R126). -/
def execBmi (s : State) : Host.Outcome State Fault Refusal :=
  runInstr .bmi (branchOp .negative true) s

/-- BPL: branch if plus (R127). -/
def execBpl (s : State) : Host.Outcome State Fault Refusal :=
  runInstr .bpl (branchOp .negative false) s

/-- BVC: branch if overflow clear (R128). -/
def execBvc (s : State) : Host.Outcome State Fault Refusal :=
  runInstr .bvc (branchOp .overflow false) s

/-- BVS: branch if overflow set (R129). -/
def execBvs (s : State) : Host.Outcome State Fault Refusal :=
  runInstr .bvs (branchOp .overflow true) s

end Sys2Proof.Machine
end

