-- ==== Sys2Proof/Machine/LoadStore.lean ====
section
/-! DEFINITION. Loads, stores and register transfers (41_load_store_transfer.md R83 to R94). -/

namespace Sys2Proof.Machine

/-- LDA's operation: `m <- ReadOperand(); A <- m; SetZN(A)` (R83). -/
def ldaOp (d : Descriptor) : M Unit := do
  let m ← readOperand d
  update fun s => (s.setA m).setZN m

/-- LDX's operation: `m <- ReadOperand(); X <- m; SetZN(X)` (R84). -/
def ldxOp (d : Descriptor) : M Unit := do
  let m ← readOperand d
  update fun s => (s.setX m).setZN m

/-- LDY's operation: `m <- ReadOperand(); Y <- m; SetZN(Y)` (R85). -/
def ldyOp (d : Descriptor) : M Unit := do
  let m ← readOperand d
  update fun s => (s.setY m).setZN m

/-- STA's operation: `StoreOperand(A)` (R86). -/
def staOp (d : Descriptor) : M Unit := do
  let s ← readState
  storeOperand d s.a

/-- STX's operation: `StoreOperand(X)` (R87). -/
def stxOp (d : Descriptor) : M Unit := do
  let s ← readState
  storeOperand d s.x

/-- STY's operation: `StoreOperand(Y)` (R88). -/
def styOp (d : Descriptor) : M Unit := do
  let s ← readState
  storeOperand d s.y

/-- TAX's operation: `X <- A; SetZN(X)` (R89). -/
def taxOp (_ : Descriptor) : M Unit :=
  update fun s => (s.setX s.a).setZN s.a

/-- TAY's operation: `Y <- A; SetZN(Y)` (R90). -/
def tayOp (_ : Descriptor) : M Unit :=
  update fun s => (s.setY s.a).setZN s.a

/-- TXA's operation: `A <- X; SetZN(A)` (R91). -/
def txaOp (_ : Descriptor) : M Unit :=
  update fun s => (s.setA s.x).setZN s.x

/-- TYA's operation: `A <- Y; SetZN(A)` (R92). -/
def tyaOp (_ : Descriptor) : M Unit :=
  update fun s => (s.setA s.y).setZN s.y

/-- TSX's operation: `X <- SP; SetZN(X)` (R93). -/
def tsxOp (_ : Descriptor) : M Unit :=
  update fun s => (s.setX s.sp).setZN s.sp

/-- TXS's operation: `SP <- X`, no flag (R94). -/
def txsOp (_ : Descriptor) : M Unit :=
  update fun s => s.setSp s.x

/-- LDA: load the accumulator (R83). -/
def execLda (m : Mode) (s : State) : Host.Outcome State Fault Refusal :=
  runInstr (.lda m) ldaOp s

/-- LDX: load X (R84). -/
def execLdx (m : Mode) (s : State) : Host.Outcome State Fault Refusal :=
  runInstr (.ldx m) ldxOp s

/-- LDY: load Y (R85). -/
def execLdy (m : Mode) (s : State) : Host.Outcome State Fault Refusal :=
  runInstr (.ldy m) ldyOp s

/-- STA: store the accumulator (R86). -/
def execSta (m : Mode) (s : State) : Host.Outcome State Fault Refusal :=
  runInstr (.sta m) staOp s

/-- STX: store X (R87). -/
def execStx (m : Mode) (s : State) : Host.Outcome State Fault Refusal :=
  runInstr (.stx m) stxOp s

/-- STY: store Y (R88). -/
def execSty (m : Mode) (s : State) : Host.Outcome State Fault Refusal :=
  runInstr (.sty m) styOp s

/-- TAX: transfer A to X (R89). -/
def execTax (s : State) : Host.Outcome State Fault Refusal :=
  runInstr .tax taxOp s

/-- TAY: transfer A to Y (R90). -/
def execTay (s : State) : Host.Outcome State Fault Refusal :=
  runInstr .tay tayOp s

/-- TXA: transfer X to A (R91). -/
def execTxa (s : State) : Host.Outcome State Fault Refusal :=
  runInstr .txa txaOp s

/-- TYA: transfer Y to A (R92). -/
def execTya (s : State) : Host.Outcome State Fault Refusal :=
  runInstr .tya tyaOp s

/-- TSX: transfer SP to X (R93). -/
def execTsx (s : State) : Host.Outcome State Fault Refusal :=
  runInstr .tsx tsxOp s

/-- TXS: transfer X to SP (R94). -/
def execTxs (s : State) : Host.Outcome State Fault Refusal :=
  runInstr .txs txsOp s

end Sys2Proof.Machine
end

