-- ==== Sys2Proof/Machine/Shift.lean ====
section
/-! DEFINITION. Shifts and rotates (43_shift_rotate.md R113 to R116). -/

namespace Sys2Proof.Machine

/-- ASL's operation, through Modify (R113). -/
def aslOp (d : Descriptor) : M Unit := modifyOperand d aslByte

/-- LSR's operation, through Modify (R114). -/
def lsrOp (d : Descriptor) : M Unit := modifyOperand d lsrByte

/-- ROL's operation, through Modify (R115). -/
def rolOp (d : Descriptor) : M Unit := modifyOperand d rolByte

/-- ROR's operation, through Modify (R116). -/
def rorOp (d : Descriptor) : M Unit := modifyOperand d rorByte

/-- ASL: arithmetic shift left (R113). -/
def execAsl (m : Mode) (s : State) : Host.Outcome State Fault Refusal :=
  runInstr (.asl m) aslOp s

/-- LSR: logical shift right (R114). -/
def execLsr (m : Mode) (s : State) : Host.Outcome State Fault Refusal :=
  runInstr (.lsr m) lsrOp s

/-- ROL: rotate left through carry (R115). -/
def execRol (m : Mode) (s : State) : Host.Outcome State Fault Refusal :=
  runInstr (.rol m) rolOp s

/-- ROR: rotate right through carry (R116). -/
def execRor (m : Mode) (s : State) : Host.Outcome State Fault Refusal :=
  runInstr (.ror m) rorOp s

end Sys2Proof.Machine
end

