-- ==== Sys2Proof/Machine/StackFlags.lean ====
section
/-! DEFINITION. Stack, flag and system instructions (45_stack_flags_system.md R130 to R143). -/

namespace Sys2Proof.Machine

/-- PHA's operation: `Push(A)` (R130). -/
def phaOp (_ : Descriptor) : M Unit := do
  let s ← readState
  push s.a

/-- PHP's operation: `Push(P | 0x30)` (R131). -/
def phpOp (_ : Descriptor) : M Unit := do
  let s ← readState
  push (pushedBreak s.p)

/-- PLA's operation: `A <- Pop(); SetZN(A)` (R132). -/
def plaOp (_ : Descriptor) : M Unit := do
  let v ← pop
  update fun s => (s.setA v).setZN v

/-- PLP's operation (R133). -/
def plpOp (_ : Descriptor) : M Unit := popStatus

/-- The flag instructions: one flag written (R134 to R140). -/
def flagOp (f : Flag) (b : Bool) (_ : Descriptor) : M Unit :=
  update fun s => s.setFlag f b

/-- NOP's operation: nothing beyond the step itself (R141). -/
def nopOp (_ : Descriptor) : M Unit := pure ()

/-- BRK's operation: the shared interrupt entry with return address PC + 1, Break pushed, the IRQ vector (R142). -/
def brkOp (_ : Descriptor) : M Unit := do
  let s ← readState
  intSeq (s.pc + 1) true Config.vecIrq

/-- RTI's operation: the return from an interrupt (R143). -/
def rtiOp (_ : Descriptor) : M Unit := returnSeq

/-- PHA: push the accumulator (R130). -/
def execPha (s : State) : Host.Outcome State Fault Refusal :=
  runInstr .pha phaOp s

/-- PHP: push the status byte (R131). -/
def execPhp (s : State) : Host.Outcome State Fault Refusal :=
  runInstr .php phpOp s

/-- PLA: pull the accumulator (R132). -/
def execPla (s : State) : Host.Outcome State Fault Refusal :=
  runInstr .pla plaOp s

/-- PLP: pull the status byte (R133). -/
def execPlp (s : State) : Host.Outcome State Fault Refusal :=
  runInstr .plp plpOp s

/-- CLC: clear carry (R134). -/
def execClc (s : State) : Host.Outcome State Fault Refusal :=
  runInstr .clc (flagOp .carry false) s

/-- SEC: set carry (R135). -/
def execSec (s : State) : Host.Outcome State Fault Refusal :=
  runInstr .sec (flagOp .carry true) s

/-- CLI: clear interrupt disable (R136). -/
def execCli (s : State) : Host.Outcome State Fault Refusal :=
  runInstr .cli (flagOp .interruptDisable false) s

/-- SEI: set interrupt disable (R137). -/
def execSei (s : State) : Host.Outcome State Fault Refusal :=
  runInstr .sei (flagOp .interruptDisable true) s

/-- CLD: clear decimal (R138). -/
def execCld (s : State) : Host.Outcome State Fault Refusal :=
  runInstr .cld (flagOp .decimal false) s

/-- SED: set decimal (R139). -/
def execSed (s : State) : Host.Outcome State Fault Refusal :=
  runInstr .sed (flagOp .decimal true) s

/-- CLV: clear overflow (R140). -/
def execClv (s : State) : Host.Outcome State Fault Refusal :=
  runInstr .clv (flagOp .overflow false) s

/-- NOP: no operation (R141). -/
def execNop (s : State) : Host.Outcome State Fault Refusal :=
  runInstr .nop nopOp s

/-- BRK: software interrupt (R142). -/
def execBrk (s : State) : Host.Outcome State Fault Refusal :=
  runInstr .brk brkOp s

/-- RTI: return from interrupt (R143). -/
def execRti (s : State) : Host.Outcome State Fault Refusal :=
  runInstr .rti rtiOp s

end Sys2Proof.Machine
end

