-- ==== Sys2Proof/Machine/Unofficial.lean ====
section
/-! DEFINITION. Undocumented opcodes and the illegal-instruction path (46_unofficial.md R144 to R155). -/

namespace Sys2Proof.Machine

/-- `*NOP`'s operation: nothing for Implied; the operand byte read and dropped for Immediate; for a memory mode the
effective address read and dropped (R145, D42). -/
def nopUOp (d : Descriptor) : M Unit :=
  match d.mode with
  | .implied => pure ()
  | .immediate => do
    let _ ← resolve d
    pure ()
  | _ => do
    let a ← resolve d
    let _ ← busLoad a
    pure ()

/-- A composite `X ; Y`: two operations one after the other on the composite's own descriptor, the second resolving
and reading again (R144). -/
def composite (first second : Descriptor → M Unit) (d : Descriptor) : M Unit := do
  first d
  second d

/-- `*SAX`'s operation: `StoreOperand(A & X)` (R147). -/
def saxUOp (d : Descriptor) : M Unit := do
  let s ← readState
  storeOperand d (s.a &&& s.x)

/-- ILLEGAL's handler: it raises `IllegalInstruction(NoHandler)` with the opcode (R155). -/
def illegalOp (d : Descriptor) : M Unit := raise (.illegal (.noHandler d.opcode))

/-- *NOP: undocumented no-operation (R145). -/
def execNopU (op : Byte) (s : State) : Host.Outcome State Fault Refusal :=
  runInstr (.nopU op) nopUOp s

/-- *LAX: load A, then copy into X (R146). -/
def execLaxU (m : Mode) (s : State) : Host.Outcome State Fault Refusal :=
  runInstr (.laxU m) (composite ldaOp taxOp) s

/-- *SAX: store A AND X (R147). -/
def execSaxU (m : Mode) (s : State) : Host.Outcome State Fault Refusal :=
  runInstr (.saxU m) saxUOp s

/-- *SBC: SBC Immediate under another opcode (R148). -/
def execSbcU (s : State) : Host.Outcome State Fault Refusal :=
  runInstr .sbcU sbcOp s

/-- *DCP: DEC, then CMP (R149). -/
def execDcpU (m : Mode) (s : State) : Host.Outcome State Fault Refusal :=
  runInstr (.dcpU m) (composite decOp cmpOp) s

/-- *ISC: INC, then SBC (R150). -/
def execIscU (m : Mode) (s : State) : Host.Outcome State Fault Refusal :=
  runInstr (.iscU m) (composite incOp sbcOp) s

/-- *SLO: ASL, then ORA (R151). -/
def execSloU (m : Mode) (s : State) : Host.Outcome State Fault Refusal :=
  runInstr (.sloU m) (composite aslOp oraOp) s

/-- *RLA: ROL, then AND (R152). -/
def execRlaU (m : Mode) (s : State) : Host.Outcome State Fault Refusal :=
  runInstr (.rlaU m) (composite rolOp andOp) s

/-- *SRE: LSR, then EOR (R153). -/
def execSreU (m : Mode) (s : State) : Host.Outcome State Fault Refusal :=
  runInstr (.sreU m) (composite lsrOp eorOp) s

/-- *RRA: ROR, then ADC with the carry ROR left (R154). -/
def execRraU (m : Mode) (s : State) : Host.Outcome State Fault Refusal :=
  runInstr (.rraU m) (composite rorOp adcOp) s

/-- ILLEGAL: always faults, PC past the opcode and no cycle charged (R155). -/
def execIllegal (op : Byte) (s : State) : Host.Outcome State Fault Refusal :=
  runInstr (.illegal op) illegalOp s

end Sys2Proof.Machine
end

