-- ==== Sys2Proof/Machine/Place.lean ====
section
/-! DEFINITION. Placing a program's bytes from outside the machine: what a cartridge or a test harness does before a
run (70_reset_and_hazards.md R174, R176). No step does it. Log entry 10. -/

namespace Sys2Proof.Machine

/-- Whether an address is RAM or program ROM, where an instruction's bytes can be placed. -/
def State.holdsCode (s : State) (a : Word) : Bool :=
  match s.route a with
  | .ok (.ram, _) => true
  | .ok (.rom, _) => true
  | _ => false

/-- The state with one byte placed in RAM or program ROM; no change at any other address. -/
def State.placeByte (s : State) (a : Word) (b : Byte) : State :=
  match s.route a with
  | .ok (.ram, o) => { s with ram := s.ram.write o b }
  | .ok (.rom, o) => { s with prg := s.prg.write o b }
  | _ => s

/-- Where the byte after an instruction's operand low byte is read: with `OPERAND_WRAP` in the page of the operand
(40_engine.md R73). -/
def State.operandHighAddr (s : State) : Word :=
  if s.operandWrap then nextInPage (s.pc + 1) else s.pc + 2

/-- The addresses a three-byte instruction at PC is read from. -/
def State.codeAddrs (s : State) : List Word := [s.pc, s.pc + 1, s.operandHighAddr]

/-- PC moved to `RESET_PC` when it does not point into RAM or program ROM. -/
def State.atCode (s : State) : State :=
  if s.codeAddrs.all s.holdsCode then s else s.setPc Config.resetPc

/-- The bytes placed where the next step reads its instruction. -/
def placeInstr (s : State) (bytes : List Byte) : State :=
  (s.atCode.codeAddrs.zip bytes).foldl (fun t ab => t.placeByte ab.1 ab.2) s.atCode

end Sys2Proof.Machine
end

