-- ==== Sys2Proof/Machine/Step.lean ====
section
/-! DEFINITION. One step (40_engine.md R68), and the placing of an instruction where the next step fetches it. -/

namespace Sys2Proof.Machine

/-- `step()`: fetch the opcode at PC, look it up, run the instruction (40_engine.md R68). A fault of the fetch leaves
every register unchanged (60_exceptions.md R157). -/
def step (s : State) : Host.Outcome State Fault Refusal :=
  match fetch s with
  | .ok i t => exec i t
  | .error c t => .fault (c.toFault t)

/-- The state with an instruction of at most three bytes stored where the next step fetches it. Log entry 10. -/
def State.withFetchWord (s : State) (nbits w : Nat) : State := placeInstr s (tableBytes nbits w)

end Sys2Proof.Machine
end

