-- ==== Sys2Proof/Machine/HostInterface.lean ====
section
/-! DEFINITION. The host's operations on the core (40_engine.md R78), the interrupts the platform raises between steps
(60_exceptions.md R161 to R165), reset and construction (70_reset_and_hazards.md R173 to R175), and a run as a list of host
actions, with its observable trace (40_engine.md R80, R81). Log entry 15. -/

namespace Sys2Proof.Machine

/-- `reset()`: the CPU record replaced, the bus untouched, no access made (70_reset_and_hazards.md R173). -/
def hostReset (s : State) : State :=
  { s with
    pc := Config.resetPc
    sp := Config.resetSp
    p := Config.resetP
    a := Config.resetReg
    x := Config.resetReg
    y := Config.resetReg
    cyc := s.cycReset }

/-- The launch inputs (70_reset_and_hazards.md R175). -/
structure Launch where
  prg : List Byte
  prgBanks : Nat
  mapper : Mapper
  ppu : RegBlock
  io : RegBlock
  ramInit : Vector Byte Config.ramSize
  cycReset : Nat
  intCycles : Nat
  operandWrap : Bool
  deriving DecidableEq, Repr

/-- `PRG_BANKS` as the bus can map it (70_reset_and_hazards.md R175, D33). -/
def Launch.banks (l : Launch) : Option Banks :=
  if l.prgBanks = 1 then some .one else if l.prgBanks = 2 then some .two else none

/-- The power-on state for given banks: a freshly built bus, then reset (70_reset_and_hazards.md R174). -/
def Launch.state (l : Launch) (banks : Banks) : State :=
  hostReset
    { pc := 0, sp := 0, a := 0, x := 0, y := 0, p := 0, cyc := 0,
      ram := Memory.ofBytes l.ramInit.toList 0,
      prg := Memory.ofBytes l.prg 0,
      banks := banks, ppu := l.ppu, io := l.io, mapper := l.mapper,
      operandWrap := l.operandWrap, intCycles := l.intCycles, cycReset := l.cycReset }

/-- Power-on: the machine built from the launch inputs, or `CartridgeError` (70_reset_and_hazards.md R174, R175). -/
def powerOn (l : Launch) : Except CartridgeError State :=
  match l.banks with
  | none => .error .bankCount
  | some b => if l.prg.length = b.prgSize then .ok (l.state b) else .error .prgLength

/-- `get_registers()` (40_engine.md R78). -/
structure Registers where
  pc : Word
  sp : Byte
  a : Byte
  x : Byte
  y : Byte
  p : Byte
  deriving DecidableEq, Repr

/-- `get_registers()`: no side effects (40_engine.md R78). -/
def getRegisters (s : State) : Registers := ⟨s.pc, s.sp, s.a, s.x, s.y, s.p⟩

/-- `get_cycles()`: no side effects (40_engine.md R78). -/
def getCycles (s : State) : Nat := s.cyc

/-- `peek(addr)`: a bus load, with its faults and side effects; no CPU register changes (40_engine.md R78, D25). -/
def peek (a : Word) : M Byte := busLoad a

/-- `jsr(addr)`: PC forced, nothing pushed (40_engine.md R78, D26). -/
def hostJsr (a : Word) (s : State) : State := s.setPc a

/-- `irq()`: a deliberate no-op while I is set, nothing latched (60_exceptions.md R162). -/
def irq : M Unit := do
  let s ← readState
  if s.flag .interruptDisable then pure () else takeInterrupt Config.vecIrq

/-- `nmi()`: never masked (60_exceptions.md R163). -/
def nmi : M Unit := takeInterrupt Config.vecNmi

/-- What the platform raises at one step boundary, in the order of 60_exceptions.md R165: reset, then NMI, then IRQ. -/
def boundary (doReset doNmi doIrq : Bool) : M Unit := do
  update fun s => if doReset then hostReset s else s
  if doNmi then nmi else pure ()
  if doIrq then irq else pure ()

/-- The descriptor `step()` returns to the host: that of the opcode fetched (40_engine.md R68). -/
def stepDescriptor (s : State) : Option Descriptor :=
  match busLoad s.pc s with
  | .ok op _ => some (lookup op)
  | .error _ _ => none

/-- The tuple of the observable trace: PC, A, X, Y, SP, P, CYC (40_engine.md R81). -/
structure TraceTuple where
  pc : Word
  a : Byte
  x : Byte
  y : Byte
  sp : Byte
  p : Byte
  cyc : Nat
  deriving DecidableEq, Repr

/-- The trace tuple of one state (40_engine.md R81). -/
def traceTuple (s : State) : TraceTuple := ⟨s.pc, s.a, s.x, s.y, s.sp, s.p, s.cyc⟩

/-- The state a fault leaves for the host to inspect (40_engine.md R69, 60_exceptions.md R158). -/
def faultedState : Fault → State
  | .memory _ t => t
  | .illegal _ t => t

/-- The host actions (40_engine.md R78, 60_exceptions.md R162, R163). -/
inductive HostAction
  | reset
  | step
  | peek (a : Word)
  | jsr (a : Word)
  | getRegisters
  | getCycles
  | irq
  | nmi
  deriving DecidableEq, Repr

/-- What an action returns to the host. -/
inductive Reply
  | nothing
  | executed (d : Option Descriptor)
  | byte (v : Byte)
  | registers (r : Registers)
  | cycles (n : Nat)
  deriving DecidableEq, Repr

/-- A finished computation of an action as an outcome with its reply. -/
def replyOutcome {α : Type} (reply : α → Reply) :
    EStateM.Result Cause State α → Host.Outcome (State × Reply) Fault Refusal
  | .ok v t => .next (t, reply v)
  | .error c t => .fault (c.toFault t)

/-- One host action (40_engine.md R78). -/
def HostAction.run (act : HostAction) (s : State) : Host.Outcome (State × Reply) Fault Refusal :=
  match act with
  | .reset => .next (hostReset s, .nothing)
  | .step =>
    match Machine.step s with
    | .next t => .next (t, .executed (stepDescriptor s))
    | .fault f => .fault f
    | .refused r => .refused r
  | .peek a => replyOutcome .byte (Machine.peek a s)
  | .jsr a => .next (hostJsr a s, .nothing)
  | .getRegisters => .next (s, .registers (Machine.getRegisters s))
  | .getCycles => .next (s, .cycles (Machine.getCycles s))
  | .irq => replyOutcome (fun _ => .nothing) (Machine.irq s)
  | .nmi => replyOutcome (fun _ => .nothing) (Machine.nmi s)

/-- One line of a run's record: a host action, what it returned (nothing where it raised a fault), and the tuple of the
state after it (95_test_vectors.md part 3). -/
structure RunLine where
  action : HostAction
  reply : Option Reply
  tuple : TraceTuple
  deriving DecidableEq, Repr

/-- What a run leaves: a line for each action made, oldest first, and how the run ended. -/
structure RunRecord where
  lines : List RunLine
  outcome : Host.Outcome State Fault Refusal
  deriving Repr

/-- A record with a line before its own. -/
def RunRecord.after (line : RunLine) (r : RunRecord) : RunRecord := { r with lines := line :: r.lines }

/-- A run: a finite list of host actions, ended by the first fault, with its record (40_engine.md R80, R81). The action
that faults has the last line, with the tuple of the faulted state (95_test_vectors.md P5). -/
def recordRun : List HostAction → State → RunRecord
  | [], s => ⟨[], .next s⟩
  | act :: rest, s =>
    match act.run s with
    | .next (t, reply) => (recordRun rest t).after ⟨act, some reply, traceTuple t⟩
    | .fault f => ⟨[⟨act, none, traceTuple (faultedState f)⟩], .fault f⟩
    | .refused r => ⟨[], .refused r⟩

/-- The observable trace of a run: the tuple after each step (40_engine.md R81). -/
def RunRecord.trace (r : RunRecord) : List TraceTuple :=
  (r.lines.filter fun line => line.action == .step).map RunLine.tuple

/-- What a run returned to the host, in order (40_engine.md R78). -/
def RunRecord.replies (r : RunRecord) : List Reply := r.lines.filterMap RunLine.reply

/-- How a run ends (40_engine.md R80). -/
def runActions (acts : List HostAction) (s : State) : Host.Outcome State Fault Refusal := (recordRun acts s).outcome

/-- The trace of a run from a state (40_engine.md R81). -/
def runTrace (acts : List HostAction) (s : State) : List TraceTuple := (recordRun acts s).trace

/-- The first turns of the "run forever" loop, which calls `step()` again and again and ends at the first error
(40_engine.md R79). -/
def runLoop (turns : Nat) (s : State) : RunRecord := recordRun (List.replicate turns .step) s

/-- A run from its launch state, with its record, or the failed construction (40_engine.md R80,
70_reset_and_hazards.md R175). -/
def runFromLaunch (l : Launch) (acts : List HostAction) : Except CartridgeError RunRecord :=
  (powerOn l).map (recordRun acts)

end Sys2Proof.Machine
end

