-- ==== Sys2Proof/Safety.lean ====
section
/-! DEFINITION. The terms claims use: the invariant of a machine state, the bytes that can be read with no side effect,
the operand of an instruction computed from those bytes alone by the rules of 40_engine.md R71 and R72, and which
instructions the spec lets write each register and flag. -/

namespace Sys2Proof.Machine

/-- A register block of the right size whose registers obey their bias (20_memory.md R28, R43). -/
def RegBlock.wf (size : Nat) : RegBlock → Bool
  | .external _ => true
  | .registers regs => regs.length == size && regs.all BiasedReg.wf

/-- The invariant: both memories canonical and inside their devices, `P & 0x30 = 0x20` (10_state.md R21), the
register blocks of their sizes. -/
def State.wf (s : State) : Bool :=
  s.ram.wf Config.ramSize && s.prg.wf s.banks.prgSize && s.p &&& 0x30 == 0x20 &&
  s.ppu.wf Config.ppuRegs && s.io.wf Config.ioRegs

/-- The byte a register block gives with no side effect; none for an external device. -/
def RegBlock.quiet? (d : RegBlock) (o : Nat) : Option Byte :=
  match d with
  | .external _ => none
  | .registers regs => regs[o]?.map BiasedReg.load

/-- The byte a mapper gives with no side effect. -/
def Mapper.quiet? (prg : Memory) (d : Mapper) (o : Nat) : Option Byte :=
  match d with
  | .absent => none
  | .prgMirror => some (prg.read o)
  | .external _ => none

/-- The byte a load at an address gives where it has no side effect and raises nothing: RAM, program ROM, D20's
mirror, a block of biased registers. None at an unmapped address or in an external device. -/
def State.quietByte? (s : State) (a : Word) : Option Byte :=
  match s.route a with
  | .ok (.ram, o) => some (s.ram.read o)
  | .ok (.ppu, o) => s.ppu.quiet? o
  | .ok (.io, o) => s.io.quiet? o
  | .ok (.rom, o) => some (s.prg.read o)
  | .ok (.mapper, o) => s.mapper.quiet? s.prg o
  | .error _ => none

/-- The two bytes of a same-page 16-bit load (20_memory.md R38), read with no side effect. -/
def State.quietWord? (s : State) (a : Word) : Option Word :=
  match s.quietByte? a, s.quietByte? (nextInPage a) with
  | some l, some h => some (cat h l)
  | _, _ => none

/-- The two-byte operand (40_engine.md R72, R73), read with no side effect. -/
def State.quietOperand16? (s : State) : Option Word :=
  if s.operandWrap then s.quietWord? (s.pc - 2)
  else
    match s.quietByte? (s.pc - 2), s.quietByte? (s.pc - 1) with
    | some l, some h => some (cat h l)
    | _, _ => none

/-- The resolved value of 40_engine.md R72 at an advanced state, from bytes read with no side effect. -/
def State.effective? (s : State) (d : Descriptor) : Option Word :=
  match d.mode with
  | .accumulator => some (zext16 s.a)
  | .immediate => (s.quietByte? (s.pc - 1)).map zext16
  | .zeroPage => (s.quietByte? (s.pc - 1)).map zext16
  | .zeroPageX => (s.quietByte? (s.pc - 1)).map fun b => zext16 (b + s.x)
  | .zeroPageY => (s.quietByte? (s.pc - 1)).map fun b => zext16 (b + s.y)
  | .absolute => s.quietOperand16?
  | .absoluteX => s.quietOperand16?.map fun w => w + zext16 s.x
  | .absoluteY => s.quietOperand16?.map fun w => w + zext16 s.y
  | .indirect => s.quietOperand16?.bind s.quietWord?
  | .indirectX => (s.quietByte? (s.pc - 1)).bind fun b => s.quietWord? (zext16 (b + s.x))
  | .indirectY =>
    ((s.quietByte? (s.pc - 1)).bind fun b => s.quietWord? (zext16 b)).map fun w => w + zext16 s.y
  | .relative => (s.quietByte? (s.pc - 1)).map fun b => s.pc + sext16 b
  | .implied => none
  | .illegal => none
  | .unknown => none

/-- The source address `src` of the penalty check for a resolved address, by mode (the table of 40_engine.md R71). -/
def State.penaltySource (s : State) (d : Descriptor) (r : Word) : Word :=
  match d.mode with
  | .relative => s.pc
  | .absoluteX => r - zext16 s.x
  | .absoluteY => r - zext16 s.y
  | .indirectY => r - zext16 s.y
  | _ => r

/-- The cycles the penalty adds for a resolved address (40_engine.md R71). -/
def State.penaltyFor (s : State) (d : Descriptor) (r : Word) : Nat := penaltyCycles d r (s.penaltySource d r)

/-- The state once the instruction is past (`PC` and base cycles) and its operand is resolved with no side effect: only
the penalty is added (40_engine.md R68, R70, R71). -/
def State.resolved (s : State) (d : Descriptor) (r : Word) : State :=
  (s.advance d).addCycles ((s.advance d).penaltyFor d r)

/-- The data operand of 40_engine.md R74 for a resolved value, read with no side effect. -/
def State.quietOperand? (s : State) (d : Descriptor) (r : Word) : Option Byte :=
  if modeIsValue d.mode then some (lo r) else s.quietByte? r

/-- The state with a byte stored at an address, where the store has no side effect beyond the byte and raises nothing:
RAM (20_memory.md R30) and a block of biased registers (R43). -/
def State.quietStore? (s : State) (a : Word) (v : Byte) : Option State :=
  match s.route a with
  | .ok (.ram, o) => some (s.setRam (s.ram.write o v))
  | .ok (.ppu, o) =>
    match s.ppu with
    | .external _ => none
    | .registers regs => regs[o]?.map fun r => { s with ppu := .registers (regs.set o (r.store v)) }
  | .ok (.io, o) =>
    match s.io with
    | .external _ => none
    | .registers regs => regs[o]?.map fun r => { s with io := .registers (regs.set o (r.store v)) }
  | _ => none

/-- Two addresses that the router sends to one place: the same address, or a mirror of it (20_memory.md R34). -/
def State.sameCell (s : State) (a b : Word) : Prop := ∃ place, s.route a = .ok place ∧ s.route b = .ok place

/-- A descriptor row of the table of 30_encoding.md R62: opcode, mode, length, base cycles, `can_cross_page`. -/
abbrev EncodingRow := Byte × Mode × Nat × Nat × Bool

/-- The Encoding line of an instruction's rule: each row is the descriptor of its opcode and decodes to the
instruction in that mode, and the instruction has no other mode. -/
def EncodedAs (mnemonic : String) (i : Mode → Instr) (rows : List EncodingRow) : Prop :=
  (∀ op mode length cycles cross, (op, mode, length, cycles, cross) ∈ rows →
    lookup op = ⟨op, mnemonic, length, cycles, cross, mode⟩ ∧ decode op = i mode) ∧
  ∀ mode, (i mode).wf = true → ∃ row ∈ rows, row.2.1 = mode

/-- The state once an instruction of a given length and base cycles is past (40_engine.md R68). -/
def State.past (s : State) (length cycles : Nat) : State :=
  (s.setPc (s.pc + BitVec.ofNat 16 length)).addCycles cycles

/-- The state after a byte is pushed where the push raises nothing (20_memory.md R40). -/
def State.pushed (s : State) (v : Byte) : State :=
  (s.setRam (s.ram.write (0x0100 + s.sp.toNat) v)).setSp (s.sp - 1)

/-- The byte a pop gives where it raises nothing (20_memory.md R41). -/
def State.top (s : State) : Byte := s.ram.read (0x0100 + (s.sp + 1).toNat)

/-- `m <- ReadOperand()`, then the state changed by `f m` and nothing else (40_engine.md R74). The first clause is for
an operand read with no side effect; the others follow the resolver and the bus wherever they lead, an external device
or a fault. -/
def ReadsThen (i : Instr) (f : Byte → State → State) : Prop :=
  ∀ (d : Descriptor) (s : State), i.descriptor = some d →
    (∀ r m, (s.advance d).effective? d = some r → (s.advance d).quietOperand? d r = some m →
      exec i s = .next (f m (s.resolved d r))) ∧
    (∀ c t, resolve d (s.advance d) = .error c t → exec i s = .fault (c.toFault t)) ∧
    ∀ r t, resolve d (s.advance d) = .ok r t →
      (modeIsValue d.mode = true → exec i s = .next (f (lo r) t)) ∧
      (modeIsValue d.mode = false →
        (∀ m u, busLoad r t = .ok m u → exec i s = .next (f m u)) ∧
        ∀ c u, busLoad r t = .error c u → exec i s = .fault (c.toFault u))

/-- `StoreOperand(v)` of a byte taken from the registers, and nothing else (40_engine.md R75). The clauses are as in
`ReadsThen`. -/
def StoresByte (i : Instr) (v : State → Byte) : Prop :=
  ∀ (d : Descriptor) (s : State), i.descriptor = some d →
    (∀ r t, (s.advance d).effective? d = some r → (s.resolved d r).quietStore? r (v s) = some t →
      exec i s = .next t) ∧
    (∀ c t, resolve d (s.advance d) = .error c t → exec i s = .fault (c.toFault t)) ∧
    ∀ r t, resolve d (s.advance d) = .ok r t →
      (∀ u, busStore r (v s) t = .ok () u → exec i s = .next u) ∧
      ∀ c u, busStore r (v s) t = .error c u → exec i s = .fault (c.toFault u)

/-- `Modify(f)` and nothing else (40_engine.md R76): in Accumulator mode on A, in a memory mode one read, the flags, then
one write. The clauses are as in `ReadsThen`. -/
def ModifiesByte (i : Instr) (f : Byte → State → Byte × State) : Prop :=
  ∀ (d : Descriptor) (s : State), i.descriptor = some d →
    (d.mode = .accumulator → exec i s = .next ((f s.a (s.advance d)).2.setA (f s.a (s.advance d)).1)) ∧
    (d.mode ≠ .accumulator →
      (∀ r v t, (s.advance d).effective? d = some r → (s.advance d).quietByte? r = some v →
        (f v (s.resolved d r)).2.quietStore? r (f v (s.resolved d r)).1 = some t → exec i s = .next t) ∧
      (∀ c t, resolve d (s.advance d) = .error c t → exec i s = .fault (c.toFault t)) ∧
      ∀ r t, resolve d (s.advance d) = .ok r t →
        (∀ c u, busLoad r t = .error c u → exec i s = .fault (c.toFault u)) ∧
        ∀ v u, busLoad r t = .ok v u →
          (∀ w, busStore r (f v u).1 (f v u).2 = .ok () w → exec i s = .next w) ∧
          ∀ c w, busStore r (f v u).1 (f v u).2 = .error c w → exec i s = .fault (c.toFault w))

/-- A read-modify-write composite: `Modify(f)`, then `m <- ReadOperand()` and the state changed by `g m`, the second part
resolving and reading again (46_unofficial.md R144). The first clause is for operands read with no side effect, where no
penalty is charged; the others follow the two parts wherever they lead. -/
def CompositeOf (i : Instr) (f : Byte → State → Byte × State) (g : Byte → State → State) : Prop :=
  ∀ (d : Descriptor) (s : State), i.descriptor = some d →
    (∀ r v t q m, (s.advance d).effective? d = some r → (s.advance d).quietByte? r = some v →
      (f v (s.advance d)).2.quietStore? r (f v (s.advance d)).1 = some t →
      t.effective? d = some q → t.quietByte? q = some m → exec i s = .next (g m t)) ∧
    (∀ c t, modifyOperand d f (s.advance d) = .error c t → exec i s = .fault (c.toFault t)) ∧
    ∀ t, modifyOperand d f (s.advance d) = .ok () t →
      (∀ m u, readOperand d t = .ok m u → exec i s = .next (g m u)) ∧
      ∀ c u, readOperand d t = .error c u → exec i s = .fault (c.toFault u)

/-- Pushes the bytes of a list one after the other. -/
def pushAll : List Byte → M Unit
  | [] => pure ()
  | b :: rest => do
    push b
    pushAll rest

/-- Pops a number of bytes, in the order they come. -/
def popAll : Nat → M (List Byte)
  | 0 => pure []
  | n + 1 => do
    let b ← pop
    let rest ← popAll n
    pure (b :: rest)

/-- An outcome with its state changed by a function, whether it is a next state or the state of a fault. -/
def mapState (f : State → State) : Host.Outcome State Fault Refusal → Host.Outcome State Fault Refusal
  | .next t => .next (f t)
  | .fault (.memory e t) => .fault (.memory e (f t))
  | .fault (.illegal e t) => .fault (.illegal e (f t))
  | .refused r => .refused r

end Sys2Proof.Machine

namespace Sys2Proof

/-- The instructions that write A (10_state.md R15). -/
def Instr.writesA : Instr → Bool
  | .lda _ | .pla | .txa | .tya | .adc _ | .sbc _ | .and _ | .ora _ | .eor _ => true
  | .asl m | .lsr m | .rol m | .ror m => m == .accumulator
  | .laxU _ | .sbcU | .sloU _ | .rlaU _ | .sreU _ | .rraU _ | .iscU _ => true
  | _ => false

/-- The instructions that write X (10_state.md R15). -/
def Instr.writesX : Instr → Bool
  | .ldx _ | .tax | .tsx | .inx | .dex | .laxU _ => true
  | _ => false

/-- The instructions that write Y (10_state.md R15). -/
def Instr.writesY : Instr → Bool
  | .ldy _ | .tay | .iny | .dey => true
  | _ => false

/-- How many bytes an instruction pushes (44_control.md R118; 45_stack_flags_system.md R130, R131, R142). -/
def Instr.pushes : Instr → Nat
  | .pha | .php => 1
  | .jsr => 2
  | .brk => 3
  | _ => 0

/-- The instructions that write SP: those that push or pop, and TXS (10_state.md R17). -/
def Instr.writesSp : Instr → Bool
  | .pha | .php | .jsr | .brk | .pla | .plp | .rts | .rti | .txs => true
  | _ => false

/-- The instructions that may change PC after the advance (10_state.md R16). -/
def Instr.transfersControl : Instr → Bool
  | .jmp _ | .jsr | .rts | .rti | .brk => true
  | .bcc | .bcs | .beq | .bne | .bmi | .bpl | .bvc | .bvs => true
  | _ => false

/-- The instructions that store a byte at their effective address: the stores and every read-modify-write in a memory
mode (40_engine.md R75, R76). -/
def Instr.storesOperand : Instr → Bool
  | .sta _ | .stx _ | .sty _ | .saxU _ | .inc _ | .dec _ => true
  | .asl m | .lsr m | .rol m | .ror m => m != .accumulator
  | .dcpU _ | .iscU _ | .sloU _ | .rlaU _ | .sreU _ | .rraU _ => true
  | _ => false

/-- The instructions that pull the status byte: PLP and RTI (10_state.md R21). -/
def Instr.pullsStatus : Instr → Bool
  | .plp | .rti => true
  | _ => false

/-- The instructions that write Carry (10_state.md R20). -/
def Instr.writesCarry : Instr → Bool
  | .adc _ | .sbc _ | .cmp _ | .cpx _ | .cpy _ | .asl _ | .lsr _ | .rol _ | .ror _ | .clc | .sec | .plp | .rti => true
  | .sbcU | .sloU _ | .rlaU _ | .sreU _ | .rraU _ | .dcpU _ | .iscU _ => true
  | _ => false

/-- The instructions that write Zero and Negative: those that apply SetZN (40_engine.md R77), BIT, PLP and RTI
(10_state.md R20), and the compares, whose own rules (42_arith_logic.md R103 to R106) write both flags. -/
def Instr.writesZN : Instr → Bool
  | .lda _ | .ldx _ | .ldy _ | .tax | .tay | .txa | .tya | .tsx => true
  | .adc _ | .sbc _ | .and _ | .ora _ | .eor _ | .bit _ | .cmp _ | .cpx _ | .cpy _ => true
  | .inc _ | .dec _ | .inx | .iny | .dex | .dey | .asl _ | .lsr _ | .rol _ | .ror _ => true
  | .pla | .plp | .rti => true
  | .laxU _ | .sbcU | .dcpU _ | .iscU _ | .sloU _ | .rlaU _ | .sreU _ | .rraU _ => true
  | _ => false

/-- The instructions that write InterruptDisable (10_state.md R20). -/
def Instr.writesInterruptDisable : Instr → Bool
  | .sei | .cli | .plp | .rti | .brk => true
  | _ => false

/-- The instructions that write Decimal (10_state.md R20). -/
def Instr.writesDecimal : Instr → Bool
  | .sed | .cld | .plp | .rti => true
  | _ => false

/-- The instructions that write Overflow (10_state.md R20). -/
def Instr.writesOverflow : Instr → Bool
  | .adc _ | .sbc _ | .bit _ | .clv | .plp | .rti | .sbcU | .rraU _ | .iscU _ => true
  | _ => false

/-- Which instruction writes which flag of P; none writes Break or unused (10_state.md R20, R21). -/
def Instr.writesFlag (i : Instr) : Machine.Flag → Bool
  | .carry => i.writesCarry
  | .zero => i.writesZN
  | .interruptDisable => i.writesInterruptDisable
  | .decimal => i.writesDecimal
  | .break => false
  | .unused => false
  | .overflow => i.writesOverflow
  | .negative => i.writesZN

end Sys2Proof
end

