-- ==== Sys2Proof/Certificates/Slice0/Obligations.lean ====
section
/-! DEFINITION. The statements for the provers, in the order of spec/: encoding, memory, engine, state, then the
instructions file by file, interrupts and reset. OBLIGATIONS.json lists them. -/

section

open Sys2Proof Sys2Proof.Machine

/-! Encoding (30_encoding.md). -/

/-- Words written out from the Encoding lines decode to the instruction they stand for (R53, R56, R65): one for each
file 41 to 46, with its operand bytes low byte first, and one Illegal opcode. -/
def Obligations.SampleWordsDecode : Prop :=
  decodeBytes [0xA9, 0x80] = .ok (⟨.lda .immediate, .one 0x80⟩, []) ∧
  decodeBytes [0x7D, 0xF0, 0x02] = .ok (⟨.adc .absoluteX, .two 0xF0 0x02⟩, []) ∧
  decodeBytes [0x4A, 0xFF] = .ok (⟨.lsr .accumulator, .none⟩, [0xFF]) ∧
  decodeBytes [0x6C, 0xFF, 0x02] = .ok (⟨.jmp .indirect, .two 0xFF 0x02⟩, []) ∧
  decodeBytes [0xD0, 0xFB] = .ok (⟨.bne, .one 0xFB⟩, []) ∧
  decodeBytes [0x00, 0xEA] = .ok (⟨.brk, .none⟩, [0xEA]) ∧
  decodeBytes [0xB3, 0x40] = .ok (⟨.laxU .indirectY, .one 0x40⟩, []) ∧
  decodeBytes [0x80, 0x55] = .ok (⟨.nopU 0x80, .one 0x55⟩, []) ∧
  decodeBytes [0x02] = .ok (⟨.illegal 0x02, .none⟩, [])

/-- Every opcode has a descriptor that carries the opcode, the length of its mode's format and never the Unknown tag
(R54, R55, R57, R58). -/
def Obligations.DescriptorLengthIsItsFormats : Prop :=
  ∀ op : Byte,
    (lookup op).opcode = op ∧ (lookup op).mode ≠ .unknown ∧
    ((lookup op).mode ∈ [Mode.implied, .accumulator, .illegal] → (lookup op).length = 1) ∧
    ((lookup op).mode ∈ [Mode.immediate, .zeroPage, .zeroPageX, .zeroPageY, .indirectX, .indirectY, .relative] →
      (lookup op).length = 2) ∧
    ((lookup op).mode ∈ [Mode.absolute, .absoluteX, .absoluteY, .indirect] → (lookup op).length = 3)

/-- Exactly the 29 opcodes of R63 carry the Illegal descriptor. A step of any of them moves PC past the opcode, charges no
cycle, changes nothing else and faults NoHandler with the opcode (R63, R155). -/
def Obligations.IllegalOpcodesFault : Prop :=
  (∀ op : Byte,
    op ∈ ([0x02, 0x12, 0x22, 0x32, 0x42, 0x52, 0x62, 0x72, 0x92, 0xB2, 0xD2, 0xF2, 0x0B, 0x2B, 0x4B, 0x6B, 0x8B, 0xAB,
      0xCB, 0x93, 0x9B, 0x9C, 0x9E, 0x9F, 0xBB, 0x82, 0x89, 0xC2, 0xE2] : List Byte) ↔
    decode op = .illegal op) ∧
  ∀ op : Byte, decode op = .illegal op →
    lookup op = ⟨op, "ILLEGAL", 1, 0, false, .illegal⟩ ∧
    (∀ s, exec (.illegal op) s = .fault (.illegal (.noHandler op) (s.setPc (s.pc + 1)))) ∧
    ∀ s, s.quietByte? s.pc = some op → step s = .fault (.illegal (.noHandler op) (s.setPc (s.pc + 1)))

/-- Decoding what the encoder writes gives the instruction back with every operand byte, and hands back what follows it
(R53, R65), for every well-formed instruction. -/
def Obligations.DecodeInvertsEncode : Prop :=
  ∀ (e : Encoded) (rest : List Byte), e.wf = true → decodeBytes (encode e ++ rest) = .ok (e, rest)

/-- What the decoder reads is well formed, and encoding it gives the bytes back (R53, R65). -/
def Obligations.EncodeInvertsDecode : Prop :=
  ∀ (bytes rest : List Byte) (e : Encoded), decodeBytes bytes = .ok (e, rest) →
    e.wf = true ∧ encode e ++ rest = bytes

/-- The decoder refuses a list of bytes exactly where it is empty or shorter than the length its opcode decides (R53,
R65); it never refuses an opcode. -/
def Obligations.DecodeRefusesOnlyShortLists : Prop :=
  decodeBytes [] = .error .noOpcode ∧
  ∀ (op : Byte) (rest : List Byte),
    (rest.length + 1 < (lookup op).length → decodeBytes (op :: rest) = .error (.truncated op)) ∧
    ((lookup op).length ≤ rest.length + 1 → ∃ e, decodeBytes (op :: rest) = .ok (e, rest.drop ((lookup op).length - 1)) ∧
      e.instr = decode op ∧ e.operand.toList = rest.take ((lookup op).length - 1))

/-! Memory (20_memory.md). -/

/-- The routing table, region by region, for both bank counts and with or without a mapper (R33). -/
def Obligations.RouterFollowsTheTable : Prop :=
  ∀ (s : State) (a : Word),
    (a.toNat ≤ 0x1FFF → s.route a = .ok (.ram, a.toNat % 0x0800)) ∧
    (0x2000 ≤ a.toNat → a.toNat ≤ 0x3FFF → s.route a = .ok (.ppu, a.toNat % 8)) ∧
    (0x4000 ≤ a.toNat → a.toNat ≤ 0x4017 → s.route a = .ok (.io, a.toNat - 0x4000)) ∧
    (0x4018 ≤ a.toNat → a.toNat ≤ 0x7FFF → s.route a = .error (.unmapped a)) ∧
    (s.banks = .one → 0xC000 ≤ a.toNat → s.route a = .ok (.rom, a.toNat - 0xC000)) ∧
    (s.banks = .two → 0x8000 ≤ a.toNat → s.route a = .ok (.rom, a.toNat - 0x8000)) ∧
    (s.banks = .one → 0x8000 ≤ a.toNat → a.toNat ≤ 0xBFFF → s.mapper = .absent →
      s.route a = .error (.mapperMissing a)) ∧
    (s.banks = .one → 0x8000 ≤ a.toNat → a.toNat ≤ 0xBFFF → s.mapper ≠ .absent →
      s.route a = .ok (.mapper, a.toNat - 0x8000))

/-- The RAM is seen four times, and a store through any of its addresses is seen by a load through every other; a PPU
register is seen every 8 bytes (R34). -/
def Obligations.MirrorsShareOneCell : Prop :=
  (∀ (s : State) (o j k : Nat) (v : Byte), s.ram.wf Config.ramSize = true → o < 0x0800 → j < 4 → k < 4 →
    busLoad (BitVec.ofNat 16 (o + 0x0800 * j)) s = .ok (s.ram.read o) s ∧
    ∃ t, busStore (BitVec.ofNat 16 (o + 0x0800 * j)) v s = .ok () t ∧
      busLoad (BitVec.ofNat 16 (o + 0x0800 * k)) t = .ok v t) ∧
  ∀ (s : State) (k r : Nat), k < 0x0400 → r < 8 →
    s.route (BitVec.ofNat 16 (0x2000 + 8 * k + r)) = .ok (.ppu, r)

/-- The ROM device answers the byte of PRG and refuses every store as ReadOnly, changing nothing; an offset beyond PRG is
OffsetOutOfRange, which the router never produces (R31). -/
def Obligations.RomRefusesStores : Prop :=
  ∀ (s : State) (o : Nat) (v : Byte),
    (o < s.banks.prgSize →
      deviceLoad .rom o s = (.ok (s.prg.read o), s) ∧ deviceStore .rom o v s = (.error .readOnly, s)) ∧
    (s.banks.prgSize ≤ o →
      deviceLoad .rom o s = (.error .offsetOutOfRange, s) ∧
      deviceStore .rom o v s = (.error .offsetOutOfRange, s)) ∧
    ∀ a : Word, s.route a = .ok (.rom, o) →
      o < s.banks.prgSize ∧ busStore a v s = .error (.memory (.readOnly a)) s

/-- A store to RAM is seen by every later load of that byte through any mirror, by no other load, and by the very next
fetch (R49, R51). -/
def Obligations.StoreSeenByLoadsAndFetch : Prop :=
  ∀ (s t : State) (a : Word) (v : Byte), s.ram.wf Config.ramSize = true → a.toNat ≤ 0x1FFF →
    busStore a v s = .ok () t →
    (∀ b, s.sameCell a b → t.quietByte? b = some v) ∧
    (∀ b, ¬ s.sameCell a b → t.quietByte? b = s.quietByte? b) ∧
    (s.sameCell a s.pc → step t = exec (decode v) t)

/-- The 16-bit load: low byte first, the high byte from the same page, and a fault of either load its own (R38). -/
def Obligations.Load16StaysInPage : Prop :=
  (∀ a : Word, nextInPage a = if lo a = 0xFF then cat (hi a) 0x00 else a + 1) ∧
  ∀ (s : State) (a : Word),
    (∀ l t h u, busLoad a s = .ok l t → busLoad (nextInPage a) t = .ok h u → busLoad16 a s = .ok (cat h l) u) ∧
    (∀ c t, busLoad a s = .error c t → busLoad16 a s = .error c t) ∧
    ∀ l t c u, busLoad a s = .ok l t → busLoad (nextInPage a) t = .error c u → busLoad16 a s = .error c u

/-- The 16-bit store: low byte first at the address, the high byte in the same page; in RAM a 16-bit load then gives the
value back (R39). -/
def Obligations.Store16ThenLoad16 : Prop :=
  (∀ (s t : State) (a v : Word), busStore a (lo v) s = .ok () t →
    busStore16 a v s = busStore (nextInPage a) (hi v) t) ∧
  ∀ (s : State) (a v : Word), s.ram.wf Config.ramSize = true → a.toNat ≤ 0x1FFF →
    ∃ t, busStore16 a v s = .ok () t ∧ busLoad16 a t = .ok v t

/-- Push writes at 0x0100 + SP and then decrements SP, and faults at SP = 0x00 with nothing changed, so that it never
writes the byte at 0x0100; Pop increments SP and then reads, and faults at SP = 0xFF with nothing changed (R40, R41). -/
def Obligations.PushAndPop : Prop :=
  ∀ (s : State) (v : Byte),
    (s.sp = 0x00 → push v s = .error (.memory (.stackOverflow 0x00)) s) ∧
    (s.sp ≠ 0x00 → push v s = .ok () ((s.setRam (s.ram.write (0x0100 + s.sp.toNat) v)).setSp (s.sp - 1))) ∧
    (∀ t, s.ram.wf Config.ramSize = true → push v s = .ok () t → t.ram.read 0x0100 = s.ram.read 0x0100) ∧
    (s.sp = 0xFF → pop s = .error (.memory (.stackUnderflow 0xFF)) s) ∧
    (s.sp ≠ 0xFF → pop s = .ok (s.ram.read (0x0100 + (s.sp + 1).toNat)) (s.setSp (s.sp + 1)))

/-- Pushing n bytes and then popping n gives them back in reverse order and restores SP, for every n up to SP (R42). -/
def Obligations.PushesThenPopsReverse : Prop :=
  ∀ (bytes : List Byte) (s : State), s.ram.wf Config.ramSize = true → bytes.length ≤ s.sp.toNat →
    ∃ t, pushAll bytes s = .ok () t ∧ popAll bytes.length t = .ok bytes.reverse (t.setSp s.sp)

/-- The biased register, bit by bit: a forced bit reads its bias whatever is stored, set or cleared; a bias takes effect
on the stored value at once and replaces an earlier one, and no operation removes one; no bit is ever forced both ways
(R43). -/
def Obligations.BiasedBitsReadTheirBias : Prop :=
  (∀ (r : BiasedReg) (v : Byte) (i j : Fin 8) (b : Bool), r.wf = true →
    getBit (r.store v).load j =
      (if getBit r.force1 j then true else if getBit r.force0 j then false else getBit v j) ∧
    getBit (r.setBit i).load j =
      (if getBit r.force1 j then true else if getBit r.force0 j then false else i == j || getBit r.value j) ∧
    getBit (r.clearBit i).load j =
      (if getBit r.force1 j then true else if getBit r.force0 j then false else i != j && getBit r.value j) ∧
    getBit (r.bias i b).load j = (if i = j then b else getBit r.value j) ∧
    getBit (r.bias i b).force0 j = (if i = j then !b else getBit r.force0 j) ∧
    getBit (r.bias i b).force1 j = (if i = j then b else getBit r.force1 j) ∧
    (r.store v).force0 = r.force0 ∧ (r.store v).force1 = r.force1 ∧
    (r.setBit i).force0 = r.force0 ∧ (r.setBit i).force1 = r.force1 ∧
    (r.clearBit i).force0 = r.force0 ∧ (r.clearBit i).force1 = r.force1 ∧
    (r.store v).wf = true ∧ (r.setBit i).wf = true ∧ (r.clearBit i).wf = true ∧ (r.bias i b).wf = true) ∧
  ((((BiasedReg.plain 0x00).bias 3 false).bias 5 true).store 0b11011001).load = 0b11110001

/-- A load or store reaches exactly the device the router names, at the offset it names: the router's fault and the
device's own fault come back, no other device and no CPU register changes, and a fault of RAM or ROM changes nothing
(R35, R36, R37). -/
def Obligations.AccessReachesOneDevice : Prop :=
  ∀ (s : State) (a : Word) (v : Byte),
    (∀ e, s.route a = .error e →
      busLoad a s = .error (.memory e) s ∧ busStore a v s = .error (.memory e) s) ∧
    ∀ dev o, s.route a = .ok (dev, o) →
      (∀ b t, deviceLoad dev o s = (.ok b, t) → busLoad a s = .ok b t) ∧
      (∀ e t, deviceLoad dev o s = (.error e, t) → busLoad a s = .error (.memory (loadFault e a)) t) ∧
      (∀ t, deviceStore dev o v s = (.ok (), t) → busStore a v s = .ok () t) ∧
      (∀ e t, deviceStore dev o v s = (.error e, t) → busStore a v s = .error (.memory (storeFault e a)) t) ∧
      (∀ e t, deviceStore dev o v s = (.error e, t) → dev = .ram ∨ dev = .rom → t = s) ∧
      (∀ t, t = (deviceLoad dev o s).2 ∨ t = (deviceStore dev o v s).2 →
        getRegisters t = getRegisters s ∧ t.cyc = s.cyc ∧ t.prg = s.prg ∧ t.banks = s.banks ∧
        (dev ≠ .ram → t.ram = s.ram) ∧ (dev ≠ .ppu → t.ppu = s.ppu) ∧ (dev ≠ .io → t.io = s.io) ∧
        (dev ≠ .mapper → t.mapper = s.mapper)) ∧
      (deviceLoad dev o s).2.ram = s.ram

/-! The engine (40_engine.md). -/

/-- When the byte at PC is the opcode of a well-formed instruction, a step is exec of that instruction, at the state the
fetch leaves, and returns its descriptor; where the step completes and the instruction is no control transfer, PC has
moved by the descriptor's length (R68). -/
def Obligations.StepRunsTheDecodedInstruction : Prop :=
  (∀ (s : State) (i : Instr) (op : Byte), i.opcode = some op → s.quietByte? s.pc = some op → step s = exec i s) ∧
  ∀ (s t : State) (op : Byte), busLoad s.pc s = .ok op t →
    step s = exec (decode op) t ∧ (decode op).wf = true ∧ (decode op).descriptor = some (lookup op) ∧
    stepDescriptor s = some (lookup op) ∧
    ∀ u, step s = .next u → (decode op).transfersControl = false → u.pc = s.pc + BitVec.ofNat 16 (lookup op).length

/-- A fault of the fetch is the step's fault, comes before anything else and leaves every register, the cycle counter and
RAM unchanged (R68; 60_exceptions.md R157). -/
def Obligations.FetchFaultLeavesRegisters : Prop :=
  (∀ (s t : State) (c : Cause), busLoad s.pc s = .error c t →
    step s = .fault (c.toFault t) ∧ getRegisters t = getRegisters s ∧ t.cyc = s.cyc ∧ t.ram = s.ram) ∧
  (∀ s : State, 0x4018 ≤ s.pc.toNat → s.pc.toNat ≤ 0x7FFF → step s = .fault (.memory (.unmapped s.pc) s)) ∧
  ∀ s : State, s.banks = .one → s.mapper = .absent → 0x8000 ≤ s.pc.toNat → s.pc.toNat ≤ 0xBFFF →
    step s = .fault (.memory (.mapperMissing s.pc) s)

/-- The resolver gives the value of the table of R72, read from bytes without side effects, and adds the penalty of R71
and nothing else; the modes without an operand raise InvalidMode. -/
def Obligations.ResolverFollowsTheTable : Prop :=
  (∀ (s : State) (d : Descriptor) (r : Word), s.effective? d = some r →
    resolve d s = .ok r (s.addCycles (s.penaltyFor d r))) ∧
  (∀ (s : State) (d : Descriptor), d.mode ∈ [Mode.implied, .illegal, .unknown] →
    resolve d s = .error (.illegal (.invalidMode d.mode)) s) ∧
  ∀ (s : State) (d : Descriptor) (r : Word),
    s.penaltyFor d r =
      if d.canCrossPage = true ∧
          ((d.mode = .relative ∧ hi r ≠ hi s.pc) ∨ (d.mode = .absoluteX ∧ hi r ≠ hi (r - zext16 s.x)) ∨
            (d.mode = .absoluteY ∧ hi r ≠ hi (r - zext16 s.y)) ∨ (d.mode = .indirectY ∧ hi r ≠ hi (r - zext16 s.y)))
        then 1 else 0

/-- An operand that straddles a page is read with the same-page wrap when OPERAND_WRAP holds and from PC − 1 when it does
not (R73), for every place the code may stand in: bytes read with no side effect, or through the bus, an external device
included, the low byte first; a fault of either read is the operand's. -/
def Obligations.StraddlingOperandFollowsOperandWrap : Prop :=
  ∀ s : State, lo (s.pc - 2) = 0xFF →
    (∀ l h, s.quietByte? (s.pc - 2) = some l →
      (s.operandWrap = true → s.quietByte? (cat (hi (s.pc - 2)) 0x00) = some h → operand16 s = .ok (cat h l) s) ∧
      (s.operandWrap = false → s.quietByte? (s.pc - 1) = some h → operand16 s = .ok (cat h l) s)) ∧
    (∀ c t, busLoad (s.pc - 2) s = .error c t → operand16 s = .error c t) ∧
    ∀ l t, busLoad (s.pc - 2) s = .ok l t →
      (∀ h u, busLoad (if s.operandWrap then cat (hi (s.pc - 2)) 0x00 else s.pc - 1) t = .ok h u →
        operand16 s = .ok (cat h l) u) ∧
      ∀ c u, busLoad (if s.operandWrap then cat (hi (s.pc - 2)) 0x00 else s.pc - 1) t = .error c u →
        operand16 s = .error c u

/-- No step is refused, resolves a mode without an operand, or raises NoHandler but for an Illegal opcode (R72;
30_encoding.md R59; 60_exceptions.md R156). -/
def Obligations.StepsFaultOnlyAsTheTableSays : Prop :=
  ∀ s : State,
    (∀ r, step s ≠ .refused r) ∧
    (∀ m t, step s ≠ .fault (.illegal (.invalidMode m) t)) ∧
    ∀ op t, step s = .fault (.illegal (.noHandler op) t) → decode op = .illegal op ∧ ∃ u, busLoad s.pc s = .ok op u

/-- A step that completes adds its descriptor's cycles, at most one page-cross penalty, of a flagged descriptor only, and
at most one more cycle, of a branch only (R70, R71; 70_reset_and_hazards.md R179). -/
def Obligations.StepCyclesAreBounded : Prop :=
  ∀ (s t : State) (d : Descriptor), step s = .next t → stepDescriptor s = some d →
    s.cyc + d.cycles ≤ t.cyc ∧
    t.cyc ≤ s.cyc + d.cycles + (if d.canCrossPage then 1 else 0) + (if d.mode = .relative then 1 else 0)

/-! State (10_state.md). -/

/-- The state after reset satisfies the invariant. Its bus holds the model's choices (log entries 2, 6 and 7). -/
def Obligations.ResetSatisfiesInvariant : Prop := State.reset.wf = true

/-- Every step keeps the invariant: both memories canonical and inside their devices, P & 0x30 = 0x20, every register
block of its size with its bias obeyed. -/
def Obligations.StepKeepsInvariant : Prop :=
  ∀ s t : State, s.wf = true → step s = .next t → t.wf = true

/-- P & 0x30 = 0x20 after every host action that completes, from every state where it holds, and after a reset from any
state (R21). -/
def Obligations.BreakAndUnusedKeepTheirValues : Prop :=
  (∀ (act : HostAction) (s t : State) (reply : Reply), s.p &&& 0x30 = 0x20 → act.run s = .next (t, reply) →
    t.p &&& 0x30 = 0x20) ∧
  (∀ s : State, (hostReset s).p = 0x24) ∧
  (∀ (i : Instr) (s t : State), exec i s = .next t → t.p &&& 0x30 = s.p &&& 0x30) ∧
  ∀ (i : Instr) (s t : State), i = .plp ∨ i = .rti → exec i s = .next t →
    t.p = (s.top &&& 0xCF) ||| (s.p &&& 0x30)

/-- Decimal never changes what an instruction does: two states that differ in P.D alone give outcomes that differ in P.D
alone, next state or fault. Only PHP and BRK, which push P, are left out (R22). SED, CLD, PLP and RTI write P.D, and the
two pushes save it. -/
def Obligations.DecimalNeverAltersAnything : Prop :=
  (∀ (i : Instr) (s : State) (b : Bool), i ≠ .php → i ≠ .brk →
    mapState (fun t => t.setFlag .decimal false) (exec i (s.setFlag .decimal b)) =
      mapState (fun t => t.setFlag .decimal false) (exec i s)) ∧
  (∀ s t, exec .sed s = .next t → t.flag .decimal = true) ∧
  (∀ s t, exec .cld s = .next t → t.flag .decimal = false) ∧
  (∀ i s t, i = .plp ∨ i = .rti → exec i s = .next t → t.flag .decimal = flagOf s.top .decimal) ∧
  (∀ s t, s.ram.wf Config.ramSize = true → exec .php s = .next t → flagOf t.top .decimal = s.flag .decimal) ∧
  ∀ s t, s.ram.wf Config.ramSize = true → exec .brk s = .next t → flagOf t.top .decimal = s.flag .decimal

/-- Every flag is unchanged by an instruction that the spec does not name as its writer (R20; for the compares, whose
writing of Z and N R20's list leaves out, 42_arith_logic.md R103). -/
def Obligations.FlagsChangeOnlyByTheirWriters : Prop :=
  ∀ (i : Instr) (s t : State) (f : Flag), exec i s = .next t → i.writesFlag f = false → t.flag f = s.flag f

/-- A, X, Y and SP are unchanged by an instruction that the spec does not name as their writer, and PC is past the
instruction unless it is a control transfer (R15, R16, R17). -/
def Obligations.RegistersChangeOnlyByTheirWriters : Prop :=
  ∀ (i : Instr) (s t : State), exec i s = .next t →
    (i.writesA = false → t.a = s.a) ∧ (i.writesX = false → t.x = s.x) ∧ (i.writesY = false → t.y = s.y) ∧
    (i.writesSp = false → t.sp = s.sp) ∧
    (i.transfersControl = false → t.pc = s.pc + BitVec.ofNat 16 i.mode.length)

/-- No instruction changes the cartridge or a launch parameter: PRG, the bank count, whether a mapper is installed,
OPERAND_WRAP, INT_CYCLES and CYC_RESET are fixed for the run (20_memory.md R28, R51). -/
def Obligations.CartridgeIsFixed : Prop :=
  ∀ (i : Instr) (s t : State), exec i s = .next t →
    t.prg = s.prg ∧ t.banks = s.banks ∧ t.mapper.present = s.mapper.present ∧ t.operandWrap = s.operandWrap ∧
    t.intCycles = s.intCycles ∧ t.cycReset = s.cycReset

/-- An instruction in a form that stores nothing and pushes nothing leaves every byte of memory as it reads. -/
def Obligations.NonStoringFormsKeepMemory : Prop :=
  ∀ (i : Instr) (s t : State), exec i s = .next t → i.storesOperand = false → i.pushes = 0 →
    t.ram = s.ram ∧ ∀ a, t.quietByte? a = s.quietByte? a

/-- An instruction that stores at its effective address changes no byte but the one there, seen at that address and at its
mirrors: the stores, the memory forms of INC, DEC and the shifts, *SAX and the read-modify-write composites. -/
def Obligations.StoringFormsKeepOtherBytes : Prop :=
  ∀ (i : Instr) (d : Descriptor) (s t u : State) (r : Word), exec i s = .next t → i.storesOperand = true →
    i.descriptor = some d → resolve d (s.advance d) = .ok r u → s.wf = true →
    ∀ a, ¬ s.sameCell r a → t.quietByte? a = s.quietByte? a

/-- An instruction that pushes changes no byte but those it pushes, at 0x0100 + SP and below: PHA, PHP, JSR and BRK. -/
def Obligations.PushingFormsKeepOtherBytes : Prop :=
  ∀ (i : Instr) (s t : State), exec i s = .next t → 0 < i.pushes → s.ram.wf Config.ramSize = true →
    t.sp = s.sp - BitVec.ofNat 8 i.pushes ∧
    ∀ a, (∀ k, k < i.pushes → ¬ s.sameCell (stackAddr (s.sp - BitVec.ofNat 8 k)) a) →
      t.quietByte? a = s.quietByte? a

/-! Loads, stores and transfers (41_load_store_transfer.md). -/

/-- LDA, LDX, LDY: `m <- ReadOperand()`, the register takes m, Z and N follow it; every other flag and register, the cycle
counter beyond the base cycles and the penalty, and memory stay (R83, R84, R85, R82). -/
def Obligations.LoadsSetRegisterAndZN : Prop :=
  EncodedAs "LDA" .lda
    [(0xA1, .indirectX, 2, 6, false), (0xA5, .zeroPage, 2, 3, false), (0xA9, .immediate, 2, 2, false),
     (0xAD, .absolute, 3, 4, false), (0xB1, .indirectY, 2, 5, true), (0xB5, .zeroPageX, 2, 4, false),
     (0xB9, .absoluteY, 3, 4, true), (0xBD, .absoluteX, 3, 4, true)] ∧
  EncodedAs "LDX" .ldx
    [(0xA2, .immediate, 2, 2, false), (0xA6, .zeroPage, 2, 3, false), (0xAE, .absolute, 3, 4, false),
     (0xB6, .zeroPageY, 2, 4, false), (0xBE, .absoluteY, 3, 4, true)] ∧
  EncodedAs "LDY" .ldy
    [(0xA0, .immediate, 2, 2, false), (0xA4, .zeroPage, 2, 3, false), (0xAC, .absolute, 3, 4, false),
     (0xB4, .zeroPageX, 2, 4, false), (0xBC, .absoluteX, 3, 4, true)] ∧
  ∀ md : Mode,
    ReadsThen (.lda md) (fun m s => (s.setA m).setZN m) ∧
    ReadsThen (.ldx md) (fun m s => (s.setX m).setZN m) ∧
    ReadsThen (.ldy md) (fun m s => (s.setY m).setZN m)

/-- STA, STX, STY: `StoreOperand` of the register, no data read, no flag, no penalty (R86, R87, R88, R82). -/
def Obligations.StoresWriteTheRegister : Prop :=
  EncodedAs "STA" .sta
    [(0x81, .indirectX, 2, 6, false), (0x85, .zeroPage, 2, 3, false), (0x8D, .absolute, 3, 4, false),
     (0x91, .indirectY, 2, 6, false), (0x95, .zeroPageX, 2, 4, false), (0x99, .absoluteY, 3, 5, false),
     (0x9D, .absoluteX, 3, 5, false)] ∧
  EncodedAs "STX" .stx
    [(0x86, .zeroPage, 2, 3, false), (0x8E, .absolute, 3, 4, false), (0x96, .zeroPageY, 2, 4, false)] ∧
  EncodedAs "STY" .sty
    [(0x84, .zeroPage, 2, 3, false), (0x8C, .absolute, 3, 4, false), (0x94, .zeroPageX, 2, 4, false)] ∧
  ∀ md : Mode, StoresByte (.sta md) State.a ∧ StoresByte (.stx md) State.x ∧ StoresByte (.sty md) State.y

/-- TAX, TAY, TXA, TYA, TSX copy a register and set Z and N from it; TXS copies X and sets no flag. Each is one byte and
two cycles, completes in every state and changes nothing else (R89 to R94). -/
def Obligations.TransfersCopyARegister : Prop :=
  (lookup 0xAA = ⟨0xAA, "TAX", 1, 2, false, .implied⟩ ∧ decode 0xAA = .tax ∧
    ∀ s, exec .tax s = .next (((s.past 1 2).setX s.a).setZN s.a)) ∧
  (lookup 0xA8 = ⟨0xA8, "TAY", 1, 2, false, .implied⟩ ∧ decode 0xA8 = .tay ∧
    ∀ s, exec .tay s = .next (((s.past 1 2).setY s.a).setZN s.a)) ∧
  (lookup 0x8A = ⟨0x8A, "TXA", 1, 2, false, .implied⟩ ∧ decode 0x8A = .txa ∧
    ∀ s, exec .txa s = .next (((s.past 1 2).setA s.x).setZN s.x)) ∧
  (lookup 0x98 = ⟨0x98, "TYA", 1, 2, false, .implied⟩ ∧ decode 0x98 = .tya ∧
    ∀ s, exec .tya s = .next (((s.past 1 2).setA s.y).setZN s.y)) ∧
  (lookup 0xBA = ⟨0xBA, "TSX", 1, 2, false, .implied⟩ ∧ decode 0xBA = .tsx ∧
    ∀ s, exec .tsx s = .next (((s.past 1 2).setX s.sp).setZN s.sp)) ∧
  (lookup 0x9A = ⟨0x9A, "TXS", 1, 2, false, .implied⟩ ∧ decode 0x9A = .txs ∧
    ∀ s, exec .txs s = .next ((s.past 1 2).setSp s.x))

/-! Arithmetic, logic, compare, increment (42_arith_logic.md). -/

/-- ADC, SBC and *SBC: `AddCarry` of the operand byte, or of its complement (R97, R98; 46_unofficial.md R148). What AddCarry
computes is `AddCarryIsBinaryArithmetic`. -/
def Obligations.AddAndSubtractApplyAddCarry : Prop :=
  EncodedAs "ADC" .adc
    [(0x61, .indirectX, 2, 6, false), (0x65, .zeroPage, 2, 3, false), (0x69, .immediate, 2, 2, false),
     (0x6D, .absolute, 3, 4, false), (0x71, .indirectY, 2, 5, true), (0x75, .zeroPageX, 2, 4, false),
     (0x79, .absoluteY, 3, 4, true), (0x7D, .absoluteX, 3, 4, true)] ∧
  EncodedAs "SBC" .sbc
    [(0xE1, .indirectX, 2, 6, false), (0xE5, .zeroPage, 2, 3, false), (0xE9, .immediate, 2, 2, false),
     (0xED, .absolute, 3, 4, false), (0xF1, .indirectY, 2, 5, true), (0xF5, .zeroPageX, 2, 4, false),
     (0xF9, .absoluteY, 3, 4, true), (0xFD, .absoluteX, 3, 4, true)] ∧
  lookup 0xEB = ⟨0xEB, "*SBC", 2, 2, false, .immediate⟩ ∧ decode 0xEB = .sbcU ∧
  (∀ md : Mode,
    ReadsThen (.adc md) (fun m s => s.addCarry m) ∧
    ReadsThen (.sbc md) (fun m s => s.addCarry (m ^^^ 0xFF))) ∧
  ReadsThen .sbcU (fun m s => s.addCarry (m ^^^ 0xFF))

/-- AddCarry is binary addition on 8 bits: the result is A + m + C mod 256, Carry its carry out, Overflow set exactly where
the signed sum leaves −128 to 127, Z and N from the result; A and those four flags alone change, and P.D is never looked
at. With the complement it is A − m − (1 − C), Carry meaning no borrow (R95, R96). -/
def Obligations.AddCarryIsBinaryArithmetic : Prop :=
  ∀ (s : State) (m : Byte),
    (s.addCarry m).a.toNat = (s.a.toNat + m.toNat + (s.flag .carry).toNat) % 0x100 ∧
    ((s.addCarry m).flag .carry = true ↔ 0xFF < s.a.toNat + m.toNat + (s.flag .carry).toNat) ∧
    ((s.addCarry m).flag .overflow = true ↔
      s.a.toInt + m.toInt + ((s.flag .carry).toNat : Int) < -128 ∨
      127 < s.a.toInt + m.toInt + ((s.flag .carry).toNat : Int)) ∧
    ((s.addCarry m).flag .zero = true ↔ (s.addCarry m).a = 0) ∧
    (s.addCarry m).flag .negative = getBit (s.addCarry m).a 7 ∧
    (∀ f, f ∉ [Flag.carry, .zero, .overflow, .negative] → (s.addCarry m).flag f = s.flag f) ∧
    s.addCarry m = (s.setA (s.addCarry m).a).setP (s.addCarry m).p ∧
    ((s.addCarry (m ^^^ 0xFF)).a.toNat : Int) =
      ((s.a.toNat : Int) - m.toNat - (1 - ((s.flag .carry).toNat : Int))) % 0x100 ∧
    ((s.addCarry (m ^^^ 0xFF)).flag .carry = true ↔
      0 ≤ (s.a.toNat : Int) - m.toNat - (1 - ((s.flag .carry).toNat : Int)))

/-- AND, ORA, EOR write A and set Z and N from it; BIT writes no register, and takes Z from A & m and V and N from m
(R99 to R102). -/
def Obligations.LogicAndBitTest : Prop :=
  EncodedAs "AND" .and
    [(0x21, .indirectX, 2, 6, false), (0x25, .zeroPage, 2, 3, false), (0x29, .immediate, 2, 2, false),
     (0x2D, .absolute, 3, 4, false), (0x31, .indirectY, 2, 5, true), (0x35, .zeroPageX, 2, 4, false),
     (0x39, .absoluteY, 3, 4, true), (0x3D, .absoluteX, 3, 4, true)] ∧
  EncodedAs "ORA" .ora
    [(0x01, .indirectX, 2, 6, false), (0x05, .zeroPage, 2, 3, false), (0x09, .immediate, 2, 2, false),
     (0x0D, .absolute, 3, 4, false), (0x11, .indirectY, 2, 5, true), (0x15, .zeroPageX, 2, 4, false),
     (0x19, .absoluteY, 3, 4, true), (0x1D, .absoluteX, 3, 4, true)] ∧
  EncodedAs "EOR" .eor
    [(0x41, .indirectX, 2, 6, false), (0x45, .zeroPage, 2, 3, false), (0x49, .immediate, 2, 2, false),
     (0x4D, .absolute, 3, 4, false), (0x51, .indirectY, 2, 5, true), (0x55, .zeroPageX, 2, 4, false),
     (0x59, .absoluteY, 3, 4, true), (0x5D, .absoluteX, 3, 4, true)] ∧
  EncodedAs "BIT" .bit [(0x24, .zeroPage, 2, 3, false), (0x2C, .absolute, 3, 4, false)] ∧
  ∀ md : Mode,
    ReadsThen (.and md) (fun m s => (s.setA (s.a &&& m)).setZN (s.a &&& m)) ∧
    ReadsThen (.ora md) (fun m s => (s.setA (s.a ||| m)).setZN (s.a ||| m)) ∧
    ReadsThen (.eor md) (fun m s => (s.setA (s.a ^^^ m)).setZN (s.a ^^^ m)) ∧
    ReadsThen (.bit md) (fun m s =>
      ((s.setFlag .zero (s.a &&& m == 0)).setFlag .overflow (getBit m 6)).setFlag .negative (getBit m 7))

/-- CMP, CPX, CPY: `m <- ReadOperand()`, then `Compare` of the register with m (R104, R105, R106). What Compare computes is
`CompareIsUnsigned`. -/
def Obligations.ComparesApplyCompare : Prop :=
  EncodedAs "CMP" .cmp
    [(0xC1, .indirectX, 2, 6, false), (0xC5, .zeroPage, 2, 3, false), (0xC9, .immediate, 2, 2, false),
     (0xCD, .absolute, 3, 4, false), (0xD1, .indirectY, 2, 5, true), (0xD5, .zeroPageX, 2, 4, false),
     (0xD9, .absoluteY, 3, 4, true), (0xDD, .absoluteX, 3, 4, true)] ∧
  EncodedAs "CPX" .cpx
    [(0xE0, .immediate, 2, 2, false), (0xE4, .zeroPage, 2, 3, false), (0xEC, .absolute, 3, 4, false)] ∧
  EncodedAs "CPY" .cpy
    [(0xC0, .immediate, 2, 2, false), (0xC4, .zeroPage, 2, 3, false), (0xCC, .absolute, 3, 4, false)] ∧
  ∀ md : Mode,
    ReadsThen (.cmp md) (fun m s => s.compare s.a m) ∧
    ReadsThen (.cpx md) (fun m s => s.compare s.x m) ∧
    ReadsThen (.cpy md) (fun m s => s.compare s.y m)

/-- Compare sets Carry exactly where the register is at least m, unsigned, Zero exactly where they are equal, and Negative
to bit 7 of the difference; no other flag and no register changes (R103). -/
def Obligations.CompareIsUnsigned : Prop :=
  ∀ (s : State) (reg m : Byte),
    ((s.compare reg m).flag .carry = true ↔ m.toNat ≤ reg.toNat) ∧
    ((s.compare reg m).flag .zero = true ↔ reg = m) ∧
    (s.compare reg m).flag .negative = getBit (reg - m) 7 ∧
    (∀ f, f ∉ [Flag.carry, .zero, .negative] → (s.compare reg m).flag f = s.flag f) ∧
    s.compare reg m = s.setP (s.compare reg m).p

/-- INC and DEC: `Modify` with the byte plus or minus one mod 256, Z and N from it, written before the store (R107, R108). -/
def Obligations.IncrementAndDecrementMemory : Prop :=
  EncodedAs "INC" .inc
    [(0xE6, .zeroPage, 2, 5, false), (0xEE, .absolute, 3, 6, false), (0xF6, .zeroPageX, 2, 6, false),
     (0xFE, .absoluteX, 3, 7, false)] ∧
  EncodedAs "DEC" .dec
    [(0xC6, .zeroPage, 2, 5, false), (0xCE, .absolute, 3, 6, false), (0xD6, .zeroPageX, 2, 6, false),
     (0xDE, .absoluteX, 3, 7, false)] ∧
  ∀ md : Mode,
    ModifiesByte (.inc md) (fun v s => (v + 1, s.setZN (v + 1))) ∧
    ModifiesByte (.dec md) (fun v s => (v - 1, s.setZN (v - 1)))

/-- INX, INY, DEX, DEY: the register plus or minus one mod 256, Z and N from it, nothing else; one byte, two cycles, in
every state (R109 to R112). -/
def Obligations.IncrementAndDecrementIndex : Prop :=
  (lookup 0xE8 = ⟨0xE8, "INX", 1, 2, false, .implied⟩ ∧ decode 0xE8 = .inx ∧
    ∀ s, exec .inx s = .next (((s.past 1 2).setX (s.x + 1)).setZN (s.x + 1))) ∧
  (lookup 0xC8 = ⟨0xC8, "INY", 1, 2, false, .implied⟩ ∧ decode 0xC8 = .iny ∧
    ∀ s, exec .iny s = .next (((s.past 1 2).setY (s.y + 1)).setZN (s.y + 1))) ∧
  (lookup 0xCA = ⟨0xCA, "DEX", 1, 2, false, .implied⟩ ∧ decode 0xCA = .dex ∧
    ∀ s, exec .dex s = .next (((s.past 1 2).setX (s.x - 1)).setZN (s.x - 1))) ∧
  (lookup 0x88 = ⟨0x88, "DEY", 1, 2, false, .implied⟩ ∧ decode 0x88 = .dey ∧
    ∀ s, exec .dey s = .next (((s.past 1 2).setY (s.y - 1)).setZN (s.y - 1)))

/-! Shifts and rotates (43_shift_rotate.md). -/

/-- ASL, LSR, ROL, ROR, on A or on a memory byte: the bit shifted out goes to Carry, the old Carry enters a rotate, Z and N
follow the result (R113 to R116). -/
def Obligations.ShiftsAndRotates : Prop :=
  EncodedAs "ASL" .asl
    [(0x06, .zeroPage, 2, 5, false), (0x0A, .accumulator, 1, 2, false), (0x0E, .absolute, 3, 6, false),
     (0x16, .zeroPageX, 2, 6, false), (0x1E, .absoluteX, 3, 7, false)] ∧
  EncodedAs "LSR" .lsr
    [(0x46, .zeroPage, 2, 5, false), (0x4A, .accumulator, 1, 2, false), (0x4E, .absolute, 3, 6, false),
     (0x56, .zeroPageX, 2, 6, false), (0x5E, .absoluteX, 3, 7, false)] ∧
  EncodedAs "ROL" .rol
    [(0x26, .zeroPage, 2, 5, false), (0x2A, .accumulator, 1, 2, false), (0x2E, .absolute, 3, 6, false),
     (0x36, .zeroPageX, 2, 6, false), (0x3E, .absoluteX, 3, 7, false)] ∧
  EncodedAs "ROR" .ror
    [(0x66, .zeroPage, 2, 5, false), (0x6A, .accumulator, 1, 2, false), (0x6E, .absolute, 3, 6, false),
     (0x76, .zeroPageX, 2, 6, false), (0x7E, .absoluteX, 3, 7, false)] ∧
  ∀ md : Mode,
    ModifiesByte (.asl md) (fun v s => (v <<< 1, (s.setFlag .carry (getBit v 7)).setZN (v <<< 1))) ∧
    ModifiesByte (.lsr md) (fun v s => (v >>> 1, (s.setFlag .carry (getBit v 0)).setZN (v >>> 1))) ∧
    ModifiesByte (.rol md) (fun v s =>
      ((v <<< 1) ||| (if s.flag .carry then 0x01 else 0x00),
        (s.setFlag .carry (getBit v 7)).setZN ((v <<< 1) ||| (if s.flag .carry then 0x01 else 0x00)))) ∧
    ModifiesByte (.ror md) (fun v s =>
      ((v >>> 1) ||| (if s.flag .carry then 0x80 else 0x00),
        (s.setFlag .carry (getBit v 0)).setZN ((v >>> 1) ||| (if s.flag .carry then 0x80 else 0x00))))

/-! Control (44_control.md). -/

/-- JMP: PC takes the resolved value and nothing else changes; the faults are those of the operand and pointer reads
(R117). -/
def Obligations.JumpTakesTheResolvedAddress : Prop :=
  EncodedAs "JMP" .jmp [(0x4C, .absolute, 3, 3, false), (0x6C, .indirect, 3, 5, false)] ∧
  ∀ (md : Mode) (d : Descriptor) (s : State), (Instr.jmp md).descriptor = some d →
    (∀ r, (s.advance d).effective? d = some r → exec (.jmp md) s = .next ((s.advance d).setPc r)) ∧
    (∀ r t, resolve d (s.advance d) = .ok r t → exec (.jmp md) s = .next (t.setPc r)) ∧
    ∀ c t, resolve d (s.advance d) = .error c t → exec (.jmp md) s = .fault (c.toFault t)

/-- JSR: the target is read first, then the address of JSR's last byte is pushed, high byte first, and PC takes the target;
with too little stack it faults at the push that fails, the earlier one done. The target is read from wherever the code
stands, with the side effects and faults of its reads (R118). -/
def Obligations.JsrPushesTheReturnAddress : Prop :=
  lookup 0x20 = ⟨0x20, "JSR", 3, 6, false, .absolute⟩ ∧ decode 0x20 = .jsr ∧
  (∀ (s : State) (target : Word), (s.past 3 6).effective? (lookup 0x20) = some target →
    (2 ≤ s.sp.toNat →
      exec .jsr s = .next ((((s.past 3 6).pushed (hi (s.pc + 2))).pushed (lo (s.pc + 2))).setPc target)) ∧
    (s.sp = 0x01 →
      exec .jsr s = .fault (.memory (.stackOverflow 0x00) ((s.past 3 6).pushed (hi (s.pc + 2))))) ∧
    (s.sp = 0x00 → exec .jsr s = .fault (.memory (.stackOverflow 0x00) (s.past 3 6)))) ∧
  (∀ (s t : State) (target : Word), resolve (lookup 0x20) (s.past 3 6) = .ok target t →
    (2 ≤ s.sp.toNat →
      exec .jsr s = .next (((t.pushed (hi (s.pc + 2))).pushed (lo (s.pc + 2))).setPc target)) ∧
    (s.sp = 0x01 → exec .jsr s = .fault (.memory (.stackOverflow 0x00) (t.pushed (hi (s.pc + 2))))) ∧
    (s.sp = 0x00 → exec .jsr s = .fault (.memory (.stackOverflow 0x00) t))) ∧
  ∀ (s : State) (c : Cause) (t : State), resolve (lookup 0x20) (s.past 3 6) = .error c t →
    exec .jsr s = .fault (c.toFault t)

/-- RTS: pops the low byte, then the high byte, and continues one past the address; with too little on the stack it faults
at the pop that fails, the earlier one done (R119). -/
def Obligations.RtsReturnsPastThePoppedAddress : Prop :=
  lookup 0x60 = ⟨0x60, "RTS", 1, 6, false, .implied⟩ ∧ decode 0x60 = .rts ∧
  ∀ s : State,
    (s.sp.toNat ≤ 0xFD →
      exec .rts s =
        .next (((s.past 1 6).setSp (s.sp + 2)).setPc
          (cat (s.ram.read (0x0100 + (s.sp + 2).toNat)) (s.ram.read (0x0100 + (s.sp + 1).toNat)) + 1))) ∧
    (s.sp = 0xFE → exec .rts s = .fault (.memory (.stackUnderflow 0xFF) ((s.past 1 6).setSp 0xFF))) ∧
    (s.sp = 0xFF → exec .rts s = .fault (.memory (.stackUnderflow 0xFF) (s.past 1 6)))

/-- A JSR that completes and an RTS right after it: PC is past the JSR, and SP, P, A, X and Y are as before (R120). -/
def Obligations.CallThenReturn : Prop :=
  ∀ s t : State, s.ram.wf Config.ramSize = true → exec .jsr s = .next t →
    ∃ u, exec .rts t = .next u ∧ u.pc = s.pc + 3 ∧ u.sp = s.sp ∧ u.p = s.p ∧ u.a = s.a ∧ u.x = s.x ∧ u.y = s.y

/-- The eight branches: not taken, a branch costs two cycles, reads no operand and stays at the next instruction; taken, it
costs one cycle more, and another one on a change of page, and PC takes the target, wherever the displacement is read from
and whatever side effect or fault its read has. No flag is written (R121 to R129). -/
def Obligations.BranchesTestOneFlag : Prop :=
  ∀ i op mnemonic flag wanted,
    (i, op, mnemonic, flag, wanted) ∈
      ([(.bcc, 0x90, "BCC", .carry, false), (.bcs, 0xB0, "BCS", .carry, true),
        (.beq, 0xF0, "BEQ", .zero, true), (.bne, 0xD0, "BNE", .zero, false),
        (.bmi, 0x30, "BMI", .negative, true), (.bpl, 0x10, "BPL", .negative, false),
        (.bvc, 0x50, "BVC", .overflow, false), (.bvs, 0x70, "BVS", .overflow, true)] :
        List (Instr × Byte × String × Flag × Bool)) →
    lookup op = ⟨op, mnemonic, 2, 2, true, .relative⟩ ∧ decode op = i ∧
    ∀ s : State,
      (s.flag flag ≠ wanted → exec i s = .next (s.past 2 2)) ∧
      (s.flag flag = wanted →
        (∀ b, s.quietByte? (s.pc + 1) = some b →
          exec i s = .next
            ((s.past 2 (3 + if hi (s.pc + 2 + sext16 b) = hi (s.pc + 2) then 0 else 1)).setPc
              (s.pc + 2 + sext16 b))) ∧
        (∀ b t, busLoad (s.pc + 1) (s.past 2 3) = .ok b t →
          exec i s = .next
            ((t.addCycles (if hi (s.pc + 2 + sext16 b) = hi (s.pc + 2) then 0 else 1)).setPc
              (s.pc + 2 + sext16 b))) ∧
        ∀ c t, busLoad (s.pc + 1) (s.past 2 3) = .error c t → exec i s = .fault (c.toFault t))

/-! Stack, flag and system instructions (45_stack_flags_system.md). -/

/-- PHA pushes A and PHP pushes P with Break and unused set; no flag is written, and P itself stays; at SP = 0x00 both
fault with nothing pushed (R130, R131). -/
def Obligations.PushInstructions : Prop :=
  lookup 0x48 = ⟨0x48, "PHA", 1, 3, false, .implied⟩ ∧ decode 0x48 = .pha ∧
  lookup 0x08 = ⟨0x08, "PHP", 1, 3, false, .implied⟩ ∧ decode 0x08 = .php ∧
  ∀ s : State,
    (s.sp ≠ 0x00 →
      exec .pha s = .next ((s.past 1 3).pushed s.a) ∧ exec .php s = .next ((s.past 1 3).pushed (s.p ||| 0x30))) ∧
    (s.sp = 0x00 →
      exec .pha s = .fault (.memory (.stackOverflow 0x00) (s.past 1 3)) ∧
      exec .php s = .fault (.memory (.stackOverflow 0x00) (s.past 1 3)))

/-- PLA pops into A and sets Z and N from it; PLP pops into P and keeps bits 4 and 5; at SP = 0xFF both fault with nothing
popped (R132, R133). -/
def Obligations.PullInstructions : Prop :=
  lookup 0x68 = ⟨0x68, "PLA", 1, 4, false, .implied⟩ ∧ decode 0x68 = .pla ∧
  lookup 0x28 = ⟨0x28, "PLP", 1, 4, false, .implied⟩ ∧ decode 0x28 = .plp ∧
  ∀ s : State,
    (s.sp ≠ 0xFF →
      exec .pla s = .next ((((s.past 1 4).setSp (s.sp + 1)).setA s.top).setZN s.top) ∧
      exec .plp s = .next (((s.past 1 4).setSp (s.sp + 1)).setP ((s.top &&& 0xCF) ||| (s.p &&& 0x30)))) ∧
    (s.sp = 0xFF →
      exec .pla s = .fault (.memory (.stackUnderflow 0xFF) (s.past 1 4)) ∧
      exec .plp s = .fault (.memory (.stackUnderflow 0xFF) (s.past 1 4)))

/-- CLC, SEC, CLI, SEI, CLD, SED, CLV write their one flag and nothing else; NOP writes nothing. Each is one byte and two
cycles and completes in every state (R134 to R141). -/
def Obligations.FlagInstructionsAndNop : Prop :=
  (∀ i op mnemonic flag value,
    (i, op, mnemonic, flag, value) ∈
      ([(.clc, 0x18, "CLC", .carry, false), (.sec, 0x38, "SEC", .carry, true),
        (.cli, 0x58, "CLI", .interruptDisable, false), (.sei, 0x78, "SEI", .interruptDisable, true),
        (.cld, 0xD8, "CLD", .decimal, false), (.sed, 0xF8, "SED", .decimal, true),
        (.clv, 0xB8, "CLV", .overflow, false)] : List (Instr × Byte × String × Flag × Bool)) →
    lookup op = ⟨op, mnemonic, 1, 2, false, .implied⟩ ∧ decode op = i ∧
    ∀ s, exec i s = .next ((s.past 1 2).setFlag flag value)) ∧
  lookup 0xEA = ⟨0xEA, "NOP", 1, 2, false, .implied⟩ ∧ decode 0xEA = .nop ∧
  ∀ s, exec .nop s = .next (s.past 1 2)

/-- BRK: pushes the address two past its opcode, high byte first, then P with Break and unused set; sets I, keeps the rest
of P, and loads PC from the IRQ vector in ROM; seven cycles. With too little stack it faults at the push that fails, the
earlier ones done and I not yet set (R142; 60_exceptions.md R160). -/
def Obligations.BrkTakesTheInterruptEntry : Prop :=
  lookup 0x00 = ⟨0x00, "BRK", 1, 7, false, .implied⟩ ∧ decode 0x00 = .brk ∧
  ∀ s : State,
    (3 ≤ s.sp.toNat →
      exec .brk s =
        .next (((((((s.past 1 7).pushed (hi (s.pc + 2))).pushed (lo (s.pc + 2))).pushed (s.p ||| 0x30)).setFlag
          .interruptDisable true)).setPc
          (cat (s.prg.read (s.banks.prgSize - 1)) (s.prg.read (s.banks.prgSize - 2))))) ∧
    (s.sp = 0x02 →
      exec .brk s =
        .fault (.memory (.stackOverflow 0x00)
          (((s.past 1 7).pushed (hi (s.pc + 2))).pushed (lo (s.pc + 2))))) ∧
    (s.sp = 0x01 →
      exec .brk s = .fault (.memory (.stackOverflow 0x00) ((s.past 1 7).pushed (hi (s.pc + 2))))) ∧
    (s.sp = 0x00 → exec .brk s = .fault (.memory (.stackOverflow 0x00) (s.past 1 7)))

/-- RTI: pops P, keeping bits 4 and 5, then the return address, low byte first, with no one added; with too little on the
stack it faults at the pop that fails, the earlier ones done (R143). -/
def Obligations.RtiRestoresStatusAndAddress : Prop :=
  lookup 0x40 = ⟨0x40, "RTI", 1, 6, false, .implied⟩ ∧ decode 0x40 = .rti ∧
  ∀ s : State,
    (s.sp.toNat ≤ 0xFC →
      exec .rti s =
        .next ((((s.past 1 6).setP ((s.top &&& 0xCF) ||| (s.p &&& 0x30))).setSp (s.sp + 3)).setPc
          (cat (s.ram.read (0x0100 + (s.sp + 3).toNat)) (s.ram.read (0x0100 + (s.sp + 2).toNat))))) ∧
    (s.sp = 0xFD →
      exec .rti s =
        .fault (.memory (.stackUnderflow 0xFF)
          (((s.past 1 6).setP ((s.top &&& 0xCF) ||| (s.p &&& 0x30))).setSp 0xFF))) ∧
    (s.sp = 0xFE →
      exec .rti s =
        .fault (.memory (.stackUnderflow 0xFF)
          (((s.past 1 6).setP ((s.top &&& 0xCF) ||| (s.p &&& 0x30))).setSp 0xFF))) ∧
    (s.sp = 0xFF → exec .rti s = .fault (.memory (.stackUnderflow 0xFF) (s.past 1 6)))

/-! Undocumented opcodes (46_unofficial.md). -/

/-- *NOP changes nothing beyond the step: the Implied form reads nothing, the Immediate form its operand byte, a memory form
its effective address, the value dropped, with the reads' faults and side effects and the AbsoluteX penalty (R145). -/
def Obligations.UndocumentedNopsOnlyRead : Prop :=
  (∀ op mode length cycles cross, (op, mode, length, cycles, cross) ∈
    ([(0x04, .zeroPage, 2, 3, false), (0x0C, .absolute, 3, 4, false), (0x14, .zeroPageX, 2, 4, false),
      (0x1A, .implied, 1, 2, false), (0x1C, .absoluteX, 3, 4, true), (0x34, .zeroPageX, 2, 4, false),
      (0x3A, .implied, 1, 2, false), (0x3C, .absoluteX, 3, 4, true), (0x44, .zeroPage, 2, 3, false),
      (0x54, .zeroPageX, 2, 4, false), (0x5A, .implied, 1, 2, false), (0x5C, .absoluteX, 3, 4, true),
      (0x64, .zeroPage, 2, 3, false), (0x74, .zeroPageX, 2, 4, false), (0x7A, .implied, 1, 2, false),
      (0x7C, .absoluteX, 3, 4, true), (0x80, .immediate, 2, 2, false), (0xD4, .zeroPageX, 2, 4, false),
      (0xDA, .implied, 1, 2, false), (0xDC, .absoluteX, 3, 4, true), (0xF4, .zeroPageX, 2, 4, false),
      (0xFA, .implied, 1, 2, false), (0xFC, .absoluteX, 3, 4, true)] : List EncodingRow) →
    lookup op = ⟨op, "*NOP", length, cycles, cross, mode⟩ ∧ decode op = .nopU op) ∧
  ∀ (op : Byte) (d : Descriptor) (s : State), (Instr.nopU op).descriptor = some d →
    (d.mode = .implied → exec (.nopU op) s = .next (s.advance d)) ∧
    (d.mode = .immediate →
      (∀ b t, busLoad (s.pc + 1) (s.advance d) = .ok b t → exec (.nopU op) s = .next t) ∧
      ∀ c t, busLoad (s.pc + 1) (s.advance d) = .error c t → exec (.nopU op) s = .fault (c.toFault t)) ∧
    (d.mode ≠ .implied → d.mode ≠ .immediate →
      (∀ r v, (s.advance d).effective? d = some r → (s.advance d).quietByte? r = some v →
        exec (.nopU op) s = .next (s.resolved d r)) ∧
      (∀ c t, resolve d (s.advance d) = .error c t → exec (.nopU op) s = .fault (c.toFault t)) ∧
      ∀ r t, resolve d (s.advance d) = .ok r t →
        (∀ v u, busLoad r t = .ok v u → exec (.nopU op) s = .next u) ∧
        ∀ c u, busLoad r t = .error c u → exec (.nopU op) s = .fault (c.toFault u))

/-- *LAX loads A and copies it into X, with one resolution and at most one penalty; *SAX stores A & X and changes no
register and no flag (R146, R147). -/
def Obligations.LaxAndSax : Prop :=
  EncodedAs "*LAX" .laxU
    [(0xA3, .indirectX, 2, 6, false), (0xA7, .zeroPage, 2, 3, false), (0xAF, .absolute, 3, 4, false),
     (0xB3, .indirectY, 2, 5, true), (0xB7, .zeroPageY, 2, 4, false), (0xBF, .absoluteY, 3, 4, true)] ∧
  EncodedAs "*SAX" .saxU
    [(0x83, .indirectX, 2, 6, false), (0x87, .zeroPage, 2, 3, false), (0x8F, .absolute, 3, 4, false),
     (0x97, .zeroPageY, 2, 4, false)] ∧
  ∀ md : Mode,
    ReadsThen (.laxU md) (fun m s => ((s.setA m).setX m).setZN m) ∧
    StoresByte (.saxU md) (fun s => s.a &&& s.x)

/-- The read-modify-write composites are two documented operations one after the other on the same operand, the second
resolving and reading again, with no penalty; in RAM the second reads the byte the first wrote. *RRA adds with the carry
its rotate left (R144, R149 to R154). -/
def Obligations.CompositesRunBothOperations : Prop :=
  (∀ mnemonic i base, (mnemonic, i, base) ∈
    ([("*SLO", .sloU, 0x00), ("*RLA", .rlaU, 0x20), ("*SRE", .sreU, 0x40), ("*RRA", .rraU, 0x60),
      ("*DCP", .dcpU, 0xC0), ("*ISC", .iscU, 0xE0)] : List (String × (Mode → Instr) × Byte)) →
    EncodedAs mnemonic i
      [(base + 0x03, .indirectX, 2, 8, false), (base + 0x07, .zeroPage, 2, 5, false),
       (base + 0x0F, .absolute, 3, 6, false), (base + 0x13, .indirectY, 2, 8, false),
       (base + 0x17, .zeroPageX, 2, 6, false), (base + 0x1B, .absoluteY, 3, 7, false),
       (base + 0x1F, .absoluteX, 3, 7, false)]) ∧
  (∀ md : Mode,
    CompositeOf (.dcpU md) decByte (fun m s => s.compare s.a m) ∧
    CompositeOf (.iscU md) incByte (fun m s => s.addCarry (m ^^^ 0xFF)) ∧
    CompositeOf (.sloU md) aslByte (fun m s => (s.setA (s.a ||| m)).setZN (s.a ||| m)) ∧
    CompositeOf (.rlaU md) rolByte (fun m s => (s.setA (s.a &&& m)).setZN (s.a &&& m)) ∧
    CompositeOf (.sreU md) lsrByte (fun m s => (s.setA (s.a ^^^ m)).setZN (s.a ^^^ m)) ∧
    CompositeOf (.rraU md) rorByte (fun m s => s.addCarry m)) ∧
  ∀ (s t : State) (r : Word) (v : Byte), s.ram.wf Config.ramSize = true → r.toNat ≤ 0x1FFF →
    s.quietStore? r v = some t → t.quietByte? r = some v

/-! Interrupts (60_exceptions.md) and reset (70_reset_and_hazards.md). -/

/-- IRQ and NMI between steps: IRQ does nothing while I is set, and NMI is never masked. The entry pushes PC, high byte
first, then P with Break clear and unused set, sets I, loads PC from the vector in ROM and adds INT_CYCLES; with too
little stack it faults at the push that fails, the earlier ones done (R160 to R163). -/
def Obligations.IrqAndNmiEntry : Prop :=
  (∀ s : State, s.flag .interruptDisable = true → irq s = .ok () s) ∧
  ∀ (s : State) (action : M Unit) (vec : Nat),
    (action = nmi ∧ vec = 6) ∨ (action = irq ∧ vec = 2 ∧ s.flag .interruptDisable = false) →
    (3 ≤ s.sp.toNat →
      action s =
        .ok () (((((((s.pushed (hi s.pc)).pushed (lo s.pc)).pushed ((s.p &&& 0xEF) ||| 0x20)).setFlag
          .interruptDisable true)).setPc
          (cat (s.prg.read (s.banks.prgSize - vec + 1)) (s.prg.read (s.banks.prgSize - vec)))).addCycles
          s.intCycles)) ∧
    (s.sp = 0x02 →
      action s = .error (.memory (.stackOverflow 0x00)) ((s.pushed (hi s.pc)).pushed (lo s.pc))) ∧
    (s.sp = 0x01 → action s = .error (.memory (.stackOverflow 0x00)) (s.pushed (hi s.pc))) ∧
    (s.sp = 0x00 → action s = .error (.memory (.stackOverflow 0x00)) s)

/-- Every interrupt entry that completes, followed by RTI, gives back SP and all of P, and returns to the interrupted
instruction, or two past BRK (R166; 45_stack_flags_system.md R143). -/
def Obligations.InterruptThenReturn : Prop :=
  (∀ s t : State, s.wf = true → exec .brk s = .next t →
    ∃ u, exec .rti t = .next u ∧ u.pc = s.pc + 2 ∧ u.sp = s.sp ∧ u.p = s.p ∧ u.a = s.a ∧ u.x = s.x ∧ u.y = s.y) ∧
  ∀ (s t : State) (action : M Unit), s.wf = true → action = nmi ∨ action = irq → action s = .ok () t → t ≠ s →
    ∃ u, exec .rti t = .next u ∧ u.pc = s.pc ∧ u.sp = s.sp ∧ u.p = s.p ∧ u.a = s.a ∧ u.x = s.x ∧ u.y = s.y

/-- reset() gives every CPU register and the counter its power-on value, whatever they held, makes no bus access and leaves
the bus and its devices untouched; it cannot fault (R173; 10_state.md R26). -/
def Obligations.ResetReplacesTheCpuState : Prop :=
  (∀ s : State,
    getRegisters (hostReset s) = ⟨0xC000, 0xFD, 0x00, 0x00, 0x00, 0x24⟩ ∧ (hostReset s).cyc = s.cycReset ∧
    HostAction.reset.run s = .next (hostReset s, .nothing) ∧
    (hostReset s).ram = s.ram ∧ (hostReset s).prg = s.prg ∧ (hostReset s).banks = s.banks ∧
    (hostReset s).ppu = s.ppu ∧ (hostReset s).io = s.io ∧ (hostReset s).mapper = s.mapper) ∧
  getRegisters State.reset = ⟨0xC000, 0xFD, 0x00, 0x00, 0x00, 0x24⟩

/-- Construction fails with CartridgeError exactly where the bank count is not 1 or 2 or PRG has the wrong length;
otherwise the state holds PRG, the bank count, the devices, RAM_INIT and the launch parameters, and the CPU record of
reset (R174, R175). -/
def Obligations.PowerOnBuildsTheLaunchState : Prop :=
  ∀ l : Launch,
    (l.prgBanks ≠ 1 → l.prgBanks ≠ 2 → powerOn l = .error .bankCount) ∧
    (l.prgBanks = 1 ∨ l.prgBanks = 2 → l.prg.length ≠ 0x4000 * l.prgBanks → powerOn l = .error .prgLength) ∧
    (l.prgBanks = 1 ∨ l.prgBanks = 2 → l.prg.length = 0x4000 * l.prgBanks →
      ∃ s, powerOn l = .ok s ∧ getRegisters s = ⟨0xC000, 0xFD, 0x00, 0x00, 0x00, 0x24⟩ ∧ s.cyc = l.cycReset ∧
        (∀ o (h : o < Config.ramSize), s.ram.read o = l.ramInit[o]) ∧
        (∀ o (h : o < l.prg.length), s.prg.read o = l.prg[o]) ∧ s.banks.prgSize = l.prg.length ∧
        s.ppu = l.ppu ∧ s.io = l.io ∧ s.mapper = l.mapper ∧ s.operandWrap = l.operandWrap ∧
        s.intCycles = l.intCycles ∧ s.cycReset = l.cycReset ∧
        (l.ppu.wf Config.ppuRegs = true → l.io.wf Config.ioRegs = true → s.wf = true))

end
end

