-- ==== Sys2Proof/Laws/Bits.lean ====
section
/-! SUPPORT. Bytes, words and single bits: the laws of lo, hi, cat and of the bit container, and of the flags of P. -/

namespace Sys2Proof.Machine

theorem getLsbD_cat (h l : Byte) (i : Nat) :
    (cat h l).getLsbD i = if i < 8 then l.getLsbD i else h.getLsbD (i - 8) := by
  have e := BitVec.getLsbD_append (x := h) (y := l) (i := i)
  by_cases h8 : i < 8 <;> simpa [h8, cat] using e

@[simp] theorem lo_cat (h l : Byte) : lo (cat h l) = l := by
  apply BitVec.eq_of_getLsbD_eq
  intro i hi8
  simp [lo, getLsbD_cat, hi8]

@[simp] theorem hi_cat (h l : Byte) : hi (cat h l) = h := by
  apply BitVec.eq_of_getLsbD_eq
  intro i hi8
  simp [hi, getLsbD_cat, hi8]

@[simp] theorem cat_hi_lo (w : Word) : cat (hi w) (lo w) = w := by
  apply BitVec.eq_of_getLsbD_eq
  intro i hi16
  rw [getLsbD_cat]
  by_cases h8 : i < 8
  · simp [lo, h8]
  · have h1 : i - 8 < 8 := by omega
    have h2 : 8 + (i - 8) = i := by omega
    simp [hi, h8, h1, h2]

@[simp] theorem lo_zext16 (b : Byte) : lo (zext16 b) = b := by
  apply BitVec.eq_of_getLsbD_eq
  intro i hi8
  have h16 : i < 16 := by omega
  simp [lo, zext16, hi8, h16]

@[simp] theorem hi_nextInPage (a : Word) : hi (nextInPage a) = hi a := by simp [nextInPage]

@[simp] theorem lo_nextInPage (a : Word) : lo (nextInPage a) = lo a + 1 := by simp [nextInPage]

theorem getBit_putBit (v : Byte) (i j : Nat) (b : Bool) (hi : i < 8) :
    getBit (putBit v i b) j = if i = j then b else getBit v j := by
  have hb : getBit (bitMask i) j = decide (i = j) := by
    simp only [getBit, bitMask, BitVec.getLsbD_shiftLeft]
    by_cases h : i = j
    · subst h
      simp [hi]
    · simp [h]
      omega
  by_cases hj : j < 8
  · cases b <;> by_cases h : i = j <;>
      simp_all [putBit, setBit, clearBit, getBit]
  · have h : ¬ i = j := by omega
    have h2 : ∀ w : Byte, w.getLsbD j = false := fun w => BitVec.getLsbD_of_ge w j (by omega)
    simp [getBit, h, h2]

theorem Flag.index_lt (f : Flag) : f.index < 8 := by cases f <;> decide

theorem Flag.index_inj {f g : Flag} : f.index = g.index ↔ f = g := by
  cases f <;> cases g <;> decide

/-- A flag read after a flag is written (10_state.md R19). -/
@[simp] theorem flagOf_putFlag (p : Byte) (f g : Flag) (b : Bool) :
    flagOf (putFlag p f b) g = if f = g then b else flagOf p g := by
  unfold flagOf putFlag
  rw [getBit_putBit _ _ _ _ f.index_lt]
  simp only [Flag.index_inj]

/-- Two status bytes with the same flags are the same byte. -/
theorem status_ext {p q : Byte} (h : ∀ f, flagOf p f = flagOf q f) : p = q := by
  apply BitVec.eq_of_getLsbD_eq
  intro i hi
  have h0 := h .carry
  have h1 := h .zero
  have h2 := h .interruptDisable
  have h3 := h .decimal
  have h4 := h .break
  have h5 := h .unused
  have h6 := h .overflow
  have h7 := h .negative
  simp only [flagOf, getBit, Flag.index] at h0 h1 h2 h3 h4 h5 h6 h7
  match i, hi with
  | 0, _ => exact h0
  | 1, _ => exact h1
  | 2, _ => exact h2
  | 3, _ => exact h3
  | 4, _ => exact h4
  | 5, _ => exact h5
  | 6, _ => exact h6
  | 7, _ => exact h7

/-- Z and N follow the result, every other flag stays (40_engine.md R77). -/
@[simp] theorem flagOf_znFlags (p r : Byte) (f : Flag) :
    flagOf (znFlags p r) f =
      if f = .zero then r == 0 else if f = .negative then getBit r 7 else flagOf p f := by
  unfold znFlags
  cases f <;> simp

theorem flagOf_pulledStatus (p v : Byte) (f : Flag) :
    flagOf (pulledStatus p v) f = if f = .break ∨ f = .unused then flagOf p f else flagOf v f := by
  cases f <;>
    simp [flagOf, getBit, pulledStatus, Flag.index]

theorem flagOf_pushedBreak (p : Byte) (f : Flag) :
    flagOf (pushedBreak p) f = (decide (f = .break ∨ f = .unused) || flagOf p f) := by
  cases f <;> simp [flagOf, getBit, pushedBreak, Flag.index]

theorem flagOf_pushedInterrupt (p : Byte) (f : Flag) :
    flagOf (pushedInterrupt p) f = if f = .break then false else if f = .unused then true else flagOf p f := by
  cases f <;>
    simp [flagOf, getBit, pushedInterrupt, Flag.index]

/-- Break and unused, seen as the two bits of `P & 0x30` (10_state.md R21). -/
theorem keptBits_eq_iff (p q : Byte) :
    p &&& 0x30 = q &&& 0x30 ↔ flagOf p .break = flagOf q .break ∧ flagOf p .unused = flagOf q .unused := by
  constructor
  · intro h
    have h4 := congrArg (fun v : Byte => v.getLsbD 4) h
    have h5 := congrArg (fun v : Byte => v.getLsbD 5) h
    simpa [flagOf, getBit, Flag.index] using And.intro h4 h5
  · rintro ⟨h4, h5⟩
    apply status_ext
    intro f
    cases f <;> simp_all [flagOf, getBit, Flag.index]

end Sys2Proof.Machine
end

