-- ==== Sys2Proof/Laws/Memory.lean ====
section
/-! SUPPORT. The canonical memory and the biased register: read after write, and that every operation keeps its form. -/

namespace Sys2Proof.Machine

theorem Memory.read_nil (o : Nat) : Memory.read [] o = Config.unlistedByte := rfl

/-- The lower bound of a canonical list only matters through its first entry. -/
theorem Memory.wfFrom_cons {size : Nat} {below : Option Nat} {k : Nat} {v : Byte} {rest : Memory} :
    Memory.wfFrom size below ((k, v) :: rest) = true ↔
      (∀ b ∈ below, b < k) ∧ k < size ∧ v ≠ Config.unlistedByte ∧ Memory.wfFrom size (some k) rest = true := by
  cases below <;> simp [Memory.wfFrom, and_assoc]

/-- Every listed offset lies above the bound. -/
theorem Memory.read_below {size b o : Nat} {m : Memory} (h : m.wfFrom size (some b) = true) (ho : o ≤ b) :
    m.read o = Config.unlistedByte := by
  induction m generalizing b with
  | nil => rfl
  | cons e rest ih =>
    obtain ⟨k, v⟩ := e
    obtain ⟨hb, -, -, hrest⟩ := Memory.wfFrom_cons.mp h
    have hk : b < k := hb b rfl
    have hne : k ≠ o := by omega
    simp only [Memory.read, hne, if_false]
    exact ih hrest (by omega)

theorem Memory.wfFrom_weaken {size b c : Nat} {m : Memory} (h : m.wfFrom size (some b) = true) (hc : c ≤ b) :
    m.wfFrom size (some c) = true := by
  cases m with
  | nil => rfl
  | cons e rest =>
    obtain ⟨k, v⟩ := e
    rw [Memory.wfFrom_cons] at h ⊢
    obtain ⟨hb, h2⟩ := h
    have hk : b < k := hb b rfl
    exact ⟨fun d hd => by cases hd; omega, h2⟩

/-- Read after write, on a canonical memory. -/
theorem Memory.read_write_from {size : Nat} {below : Option Nat} {m : Memory} (h : m.wfFrom size below = true)
    (o q : Nat) (b : Byte) : (m.write o b).read q = if q = o then b else m.read q := by
  induction m generalizing below with
  | nil =>
    by_cases hb : b = Config.unlistedByte <;> by_cases hq : o = q <;>
      simp [Memory.write, Memory.read, hb, hq, eq_comm (a := q)]
  | cons e rest ih =>
    obtain ⟨k, v⟩ := e
    obtain ⟨-, -, -, hrest⟩ := Memory.wfFrom_cons.mp h
    by_cases h1 : o < k
    · have hkq : q = o → k ≠ q := by omega
      have hlow : Memory.read rest o = Config.unlistedByte := Memory.read_below hrest (Nat.le_of_lt h1)
      by_cases hb : b = Config.unlistedByte
      · by_cases hq : q = o
        · subst hq
          simp [Memory.write, Memory.read, h1, hb, hkq rfl, hlow]
        · simp [Memory.write, h1, hb, hq]
      · by_cases hq : q = o
        · subst hq
          simp [Memory.write, Memory.read, h1, hb]
        · have hq2 : ¬ o = q := fun e => hq e.symm
          simp [Memory.write, Memory.read, h1, hb, hq, hq2]
    · by_cases h2 : o = k
      · subst h2
        have hlow : Memory.read rest o = Config.unlistedByte := Memory.read_below hrest (le_refl o)
        by_cases hb : b = Config.unlistedByte <;> by_cases hq : q = o
        · subst hq
          simp [Memory.write, hb, hlow]
        · have hq2 : ¬ o = q := fun e => hq e.symm
          simp [Memory.write, Memory.read, hb, hq, hq2]
        · subst hq
          simp [Memory.write, Memory.read, hb]
        · have hq2 : ¬ o = q := fun e => hq e.symm
          simp [Memory.write, Memory.read, hb, hq, hq2]
      · simp only [Memory.write, h1, h2, if_false, Memory.read]
        rw [ih hrest]
        by_cases hkq : k = q
        · have hq : ¬ q = o := by omega
          simp [hkq, hq]
        · simp [hkq]

/-- Read after write (20_memory.md R30, R49). -/
theorem Memory.read_write {size : Nat} {m : Memory} (h : m.wf size = true) (o q : Nat) (b : Byte) :
    (m.write o b).read q = if q = o then b else m.read q := Memory.read_write_from h o q b

theorem Memory.write_wfFrom {size : Nat} {below : Option Nat} {m : Memory} {o : Nat} {b : Byte}
    (h : m.wfFrom size below = true) (ho : o < size) (hb : ∀ c ∈ below, c < o) :
    (m.write o b).wfFrom size below = true := by
  induction m generalizing below with
  | nil =>
    by_cases hv : b = Config.unlistedByte
    · simp [Memory.write, hv, Memory.wfFrom]
    · simp only [Memory.write, hv, if_false]
      exact Memory.wfFrom_cons.mpr ⟨hb, ho, hv, rfl⟩
  | cons e rest ih =>
    obtain ⟨k, v⟩ := e
    obtain ⟨hk, hks, hv, hrest⟩ := Memory.wfFrom_cons.mp h
    by_cases h1 : o < k
    · by_cases hv2 : b = Config.unlistedByte
      · simpa [Memory.write, h1, hv2] using h
      · simp only [Memory.write, h1, hv2, if_true, if_false]
        exact Memory.wfFrom_cons.mpr ⟨hb, ho, hv2,
          Memory.wfFrom_cons.mpr ⟨fun c hc => by cases hc; exact h1, hks, hv, hrest⟩⟩
    · by_cases h2 : o = k
      · subst h2
        by_cases hv2 : b = Config.unlistedByte
        · simp only [Memory.write, Nat.lt_irrefl, hv2, if_true, if_false]
          cases below with
          | none =>
            cases rest with
            | nil => rfl
            | cons e2 rest2 =>
              obtain ⟨k2, v2⟩ := e2
              obtain ⟨-, h3⟩ := Memory.wfFrom_cons.mp hrest
              exact Memory.wfFrom_cons.mpr ⟨by simp, h3⟩
          | some c => exact Memory.wfFrom_weaken hrest (Nat.le_of_lt (hk c rfl))
        · simp only [Memory.write, Nat.lt_irrefl, hv2, if_true, if_false]
          exact Memory.wfFrom_cons.mpr ⟨hk, hks, hv2, hrest⟩
      · simp only [Memory.write, h1, h2, if_false]
        exact Memory.wfFrom_cons.mpr ⟨hk, hks, hv, ih hrest fun c hc => by cases hc; omega⟩

/-- A write inside the device keeps the canonical form. -/
theorem Memory.write_wf {size : Nat} {m : Memory} {o : Nat} (h : m.wf size = true) (ho : o < size) (b : Byte) :
    (m.write o b).wf size = true := Memory.write_wfFrom h ho (by simp)

theorem Memory.ofBytes_wfFrom {size : Nat} {bytes : List Byte} {o : Nat} {below : Option Nat}
    (h : o + bytes.length ≤ size) (hb : ∀ c ∈ below, c < o) : (Memory.ofBytes bytes o).wfFrom size below = true := by
  induction bytes generalizing o below with
  | nil => rfl
  | cons b rest ih =>
    simp only [List.length_cons] at h
    by_cases hv : b = Config.unlistedByte
    · simp only [Memory.ofBytes, hv, if_true]
      exact ih (by omega) fun c hc => by have := hb c hc; omega
    · simp only [Memory.ofBytes, hv, if_false]
      exact Memory.wfFrom_cons.mpr ⟨hb, by omega, hv, ih (by omega) fun c hc => by cases hc; omega⟩

/-- A list of bytes loaded into a device is canonical (70_reset_and_hazards.md R174). -/
theorem Memory.ofBytes_wf {size : Nat} {bytes : List Byte} (h : bytes.length ≤ size) :
    (Memory.ofBytes bytes 0).wf size = true := Memory.ofBytes_wfFrom (by omega) (by simp)

/-- A list of bytes loaded into a device reads back. -/
theorem Memory.read_ofBytes (bytes : List Byte) (o q : Nat) :
    (Memory.ofBytes bytes o).read (o + q) = bytes.getD q Config.unlistedByte := by
  induction bytes generalizing o q with
  | nil => simp [Memory.ofBytes, Memory.read]
  | cons b rest ih =>
    cases q with
    | zero =>
      by_cases hv : b = Config.unlistedByte
      · have hw : (Memory.ofBytes rest (o + 1)).wfFrom (o + 1 + rest.length) (some o) = true :=
          Memory.ofBytes_wfFrom (le_refl _) fun c hc => by cases hc; omega
        simp only [Memory.ofBytes, hv, if_true, Nat.add_zero]
        rw [Memory.read_below hw (le_refl o)]
        simp
      · simp [Memory.ofBytes, hv, Memory.read]
    | succ q =>
      have e : o + (q + 1) = o + 1 + q := by omega
      have hne : ¬ o = o + 1 + q := by omega
      rw [e]
      by_cases hv : b = Config.unlistedByte
      · simp [Memory.ofBytes, hv, ih]
      · simp [Memory.ofBytes, hv, Memory.read, hne, ih]

/-! The biased register (20_memory.md R43). -/

theorem BiasedReg.wf_iff (r : BiasedReg) :
    r.wf = true ↔ r.force0 &&& r.force1 = 0 ∧ r.constrain r.value = r.value := by
  simp [BiasedReg.wf]

/-- Constraining twice is constraining once, where no bit is forced both ways. -/
theorem BiasedReg.constrain_constrain {r : BiasedReg} (h : r.force0 &&& r.force1 = 0) (v : Byte) :
    r.constrain (r.constrain v) = r.constrain v := by
  unfold BiasedReg.constrain
  apply BitVec.eq_of_getLsbD_eq
  intro i hi
  have hz := congrArg (fun w : Byte => w.getLsbD i) h
  simp only [BitVec.getLsbD_and] at hz
  simp only [BitVec.getLsbD_or, BitVec.getLsbD_and, BitVec.getLsbD_not, hi, decide_true, Bool.true_and]
  revert hz
  cases v.getLsbD i <;> cases r.force0.getLsbD i <;> cases r.force1.getLsbD i <;> simp

theorem BiasedReg.store_wf {r : BiasedReg} (h : r.wf = true) (v : Byte) : (r.store v).wf = true := by
  obtain ⟨h0, -⟩ := r.wf_iff.mp h
  exact (r.store v).wf_iff.mpr ⟨h0, BiasedReg.constrain_constrain h0 v⟩

end Sys2Proof.Machine
end

