-- ==== Sys2Proof/Laws/Monad.lean ====
section
/-! SUPPORT. How a computation of a step runs: one equation for each way of building one, and the inversion of a
sequence. Cited in place of unfolding the state monad. -/

namespace Sys2Proof.Machine

variable {α β : Type}

@[simp] theorem M.bind_apply (m : M α) (f : α → M β) (s : State) :
    (m >>= f) s = match m s with
      | .ok v t => f v t
      | .error c t => .error c t := by
  cases h : m s <;> simp [bind, EStateM.bind, h]

@[simp] theorem M.map_apply (f : α → β) (m : M α) (s : State) :
    (f <$> m) s = match m s with
      | .ok v t => .ok (f v) t
      | .error c t => .error c t := by
  cases h : m s <;> simp [Functor.map, EStateM.map, h]

@[simp] theorem M.pure_apply (v : α) (s : State) : (pure v : M α) s = .ok v s := rfl

@[simp] theorem update_apply (f : State → State) (s : State) : update f s = .ok () (f s) := rfl

@[simp] theorem readState_apply (s : State) : readState s = .ok s s := rfl

@[simp] theorem raise_apply (c : Cause) (s : State) : (raise c : M α) s = .error c s := rfl

@[simp] theorem applyByte_apply (f : Byte → State → Byte × State) (v : Byte) (s : State) :
    applyByte f v s = .ok (f v s).1 (f v s).2 := rfl

@[simp] theorem penalty_apply (d : Descriptor) (r src : Word) (s : State) :
    penalty d r src s = .ok () (s.addCycles (penaltyCycles d r src)) := rfl

/-- A sequence whose first part answers runs its second part. -/
theorem M.bind_of_ok {m : M α} {f : α → M β} {s t : State} {v : α} (h : m s = .ok v t) :
    (m >>= f) s = f v t := by
  rw [M.bind_apply, h]

/-- A sequence whose first part raises raises the same. -/
theorem M.bind_of_error {m : M α} {f : α → M β} {s t : State} {c : Cause} (h : m s = .error c t) :
    (m >>= f) s = .error c t := by
  rw [M.bind_apply, h]

/-- A sequence answers only where both parts do. -/
theorem M.bind_ok_inv {m : M α} {f : α → M β} {s u : State} {w : β} (h : (m >>= f) s = .ok w u) :
    ∃ v t, m s = .ok v t ∧ f v t = .ok w u := by
  rw [M.bind_apply] at h
  cases hm : m s with
  | ok v t => exact ⟨v, t, rfl, by rw [hm] at h; exact h⟩
  | error c t => rw [hm] at h; cases h

@[simp] theorem outcome_ok (t : State) : outcome (.ok () t) = .next t := rfl

@[simp] theorem outcome_error (c : Cause) (t : State) : outcome (.error c t) = .fault (c.toFault t) := rfl

/-- A computation's outcome is a next state exactly where it answers. -/
theorem outcome_eq_next {r : EStateM.Result Cause State Unit} {t : State} :
    outcome r = .next t ↔ r = .ok () t := by
  cases r <;> simp [outcome]

/-- An instruction of the table runs its handler on the advanced state. -/
theorem runInstr_of_descriptor {i : Instr} {d : Descriptor} (h : i.descriptor = some d)
    (handler : Descriptor → M Unit) (s : State) : runInstr i handler s = outcome (handler d (s.advance d)) := by
  unfold runInstr
  rw [h]

/-- An instruction answers a next state only through its descriptor and its handler. -/
theorem runInstr_next {i : Instr} {handler : Descriptor → M Unit} {s t : State}
    (h : runInstr i handler s = .next t) :
    ∃ d, i.descriptor = some d ∧ handler d (s.advance d) = .ok () t := by
  unfold runInstr at h
  cases hd : i.descriptor with
  | none => rw [hd] at h; cases h
  | some d => rw [hd] at h; exact ⟨d, rfl, outcome_eq_next.mp h⟩

end Sys2Proof.Machine
end

