-- ==== Sys2Proof/Laws/State.lean ====
section
/-! SUPPORT. One lemma per field per named update of the state, true by rfl. -/

namespace Sys2Proof.Machine

@[simp] theorem State.setPc_pc (s : State) (v : Word) : (s.setPc v).pc = v := rfl
@[simp] theorem State.setPc_sp (s : State) (v : Word) : (s.setPc v).sp = s.sp := rfl
@[simp] theorem State.setPc_a (s : State) (v : Word) : (s.setPc v).a = s.a := rfl
@[simp] theorem State.setPc_x (s : State) (v : Word) : (s.setPc v).x = s.x := rfl
@[simp] theorem State.setPc_y (s : State) (v : Word) : (s.setPc v).y = s.y := rfl
@[simp] theorem State.setPc_p (s : State) (v : Word) : (s.setPc v).p = s.p := rfl
@[simp] theorem State.setPc_cyc (s : State) (v : Word) : (s.setPc v).cyc = s.cyc := rfl
@[simp] theorem State.setPc_ram (s : State) (v : Word) : (s.setPc v).ram = s.ram := rfl
@[simp] theorem State.setPc_prg (s : State) (v : Word) : (s.setPc v).prg = s.prg := rfl
@[simp] theorem State.setPc_banks (s : State) (v : Word) : (s.setPc v).banks = s.banks := rfl
@[simp] theorem State.setPc_ppu (s : State) (v : Word) : (s.setPc v).ppu = s.ppu := rfl
@[simp] theorem State.setPc_io (s : State) (v : Word) : (s.setPc v).io = s.io := rfl
@[simp] theorem State.setPc_mapper (s : State) (v : Word) : (s.setPc v).mapper = s.mapper := rfl
@[simp] theorem State.setPc_operandWrap (s : State) (v : Word) : (s.setPc v).operandWrap = s.operandWrap := rfl
@[simp] theorem State.setPc_intCycles (s : State) (v : Word) : (s.setPc v).intCycles = s.intCycles := rfl
@[simp] theorem State.setPc_cycReset (s : State) (v : Word) : (s.setPc v).cycReset = s.cycReset := rfl

@[simp] theorem State.setSp_pc (s : State) (v : Byte) : (s.setSp v).pc = s.pc := rfl
@[simp] theorem State.setSp_sp (s : State) (v : Byte) : (s.setSp v).sp = v := rfl
@[simp] theorem State.setSp_a (s : State) (v : Byte) : (s.setSp v).a = s.a := rfl
@[simp] theorem State.setSp_x (s : State) (v : Byte) : (s.setSp v).x = s.x := rfl
@[simp] theorem State.setSp_y (s : State) (v : Byte) : (s.setSp v).y = s.y := rfl
@[simp] theorem State.setSp_p (s : State) (v : Byte) : (s.setSp v).p = s.p := rfl
@[simp] theorem State.setSp_cyc (s : State) (v : Byte) : (s.setSp v).cyc = s.cyc := rfl
@[simp] theorem State.setSp_ram (s : State) (v : Byte) : (s.setSp v).ram = s.ram := rfl
@[simp] theorem State.setSp_prg (s : State) (v : Byte) : (s.setSp v).prg = s.prg := rfl
@[simp] theorem State.setSp_banks (s : State) (v : Byte) : (s.setSp v).banks = s.banks := rfl
@[simp] theorem State.setSp_ppu (s : State) (v : Byte) : (s.setSp v).ppu = s.ppu := rfl
@[simp] theorem State.setSp_io (s : State) (v : Byte) : (s.setSp v).io = s.io := rfl
@[simp] theorem State.setSp_mapper (s : State) (v : Byte) : (s.setSp v).mapper = s.mapper := rfl
@[simp] theorem State.setSp_operandWrap (s : State) (v : Byte) : (s.setSp v).operandWrap = s.operandWrap := rfl
@[simp] theorem State.setSp_intCycles (s : State) (v : Byte) : (s.setSp v).intCycles = s.intCycles := rfl
@[simp] theorem State.setSp_cycReset (s : State) (v : Byte) : (s.setSp v).cycReset = s.cycReset := rfl

@[simp] theorem State.setA_pc (s : State) (v : Byte) : (s.setA v).pc = s.pc := rfl
@[simp] theorem State.setA_sp (s : State) (v : Byte) : (s.setA v).sp = s.sp := rfl
@[simp] theorem State.setA_a (s : State) (v : Byte) : (s.setA v).a = v := rfl
@[simp] theorem State.setA_x (s : State) (v : Byte) : (s.setA v).x = s.x := rfl
@[simp] theorem State.setA_y (s : State) (v : Byte) : (s.setA v).y = s.y := rfl
@[simp] theorem State.setA_p (s : State) (v : Byte) : (s.setA v).p = s.p := rfl
@[simp] theorem State.setA_cyc (s : State) (v : Byte) : (s.setA v).cyc = s.cyc := rfl
@[simp] theorem State.setA_ram (s : State) (v : Byte) : (s.setA v).ram = s.ram := rfl
@[simp] theorem State.setA_prg (s : State) (v : Byte) : (s.setA v).prg = s.prg := rfl
@[simp] theorem State.setA_banks (s : State) (v : Byte) : (s.setA v).banks = s.banks := rfl
@[simp] theorem State.setA_ppu (s : State) (v : Byte) : (s.setA v).ppu = s.ppu := rfl
@[simp] theorem State.setA_io (s : State) (v : Byte) : (s.setA v).io = s.io := rfl
@[simp] theorem State.setA_mapper (s : State) (v : Byte) : (s.setA v).mapper = s.mapper := rfl
@[simp] theorem State.setA_operandWrap (s : State) (v : Byte) : (s.setA v).operandWrap = s.operandWrap := rfl
@[simp] theorem State.setA_intCycles (s : State) (v : Byte) : (s.setA v).intCycles = s.intCycles := rfl
@[simp] theorem State.setA_cycReset (s : State) (v : Byte) : (s.setA v).cycReset = s.cycReset := rfl

@[simp] theorem State.setX_pc (s : State) (v : Byte) : (s.setX v).pc = s.pc := rfl
@[simp] theorem State.setX_sp (s : State) (v : Byte) : (s.setX v).sp = s.sp := rfl
@[simp] theorem State.setX_a (s : State) (v : Byte) : (s.setX v).a = s.a := rfl
@[simp] theorem State.setX_x (s : State) (v : Byte) : (s.setX v).x = v := rfl
@[simp] theorem State.setX_y (s : State) (v : Byte) : (s.setX v).y = s.y := rfl
@[simp] theorem State.setX_p (s : State) (v : Byte) : (s.setX v).p = s.p := rfl
@[simp] theorem State.setX_cyc (s : State) (v : Byte) : (s.setX v).cyc = s.cyc := rfl
@[simp] theorem State.setX_ram (s : State) (v : Byte) : (s.setX v).ram = s.ram := rfl
@[simp] theorem State.setX_prg (s : State) (v : Byte) : (s.setX v).prg = s.prg := rfl
@[simp] theorem State.setX_banks (s : State) (v : Byte) : (s.setX v).banks = s.banks := rfl
@[simp] theorem State.setX_ppu (s : State) (v : Byte) : (s.setX v).ppu = s.ppu := rfl
@[simp] theorem State.setX_io (s : State) (v : Byte) : (s.setX v).io = s.io := rfl
@[simp] theorem State.setX_mapper (s : State) (v : Byte) : (s.setX v).mapper = s.mapper := rfl
@[simp] theorem State.setX_operandWrap (s : State) (v : Byte) : (s.setX v).operandWrap = s.operandWrap := rfl
@[simp] theorem State.setX_intCycles (s : State) (v : Byte) : (s.setX v).intCycles = s.intCycles := rfl
@[simp] theorem State.setX_cycReset (s : State) (v : Byte) : (s.setX v).cycReset = s.cycReset := rfl

@[simp] theorem State.setY_pc (s : State) (v : Byte) : (s.setY v).pc = s.pc := rfl
@[simp] theorem State.setY_sp (s : State) (v : Byte) : (s.setY v).sp = s.sp := rfl
@[simp] theorem State.setY_a (s : State) (v : Byte) : (s.setY v).a = s.a := rfl
@[simp] theorem State.setY_x (s : State) (v : Byte) : (s.setY v).x = s.x := rfl
@[simp] theorem State.setY_y (s : State) (v : Byte) : (s.setY v).y = v := rfl
@[simp] theorem State.setY_p (s : State) (v : Byte) : (s.setY v).p = s.p := rfl
@[simp] theorem State.setY_cyc (s : State) (v : Byte) : (s.setY v).cyc = s.cyc := rfl
@[simp] theorem State.setY_ram (s : State) (v : Byte) : (s.setY v).ram = s.ram := rfl
@[simp] theorem State.setY_prg (s : State) (v : Byte) : (s.setY v).prg = s.prg := rfl
@[simp] theorem State.setY_banks (s : State) (v : Byte) : (s.setY v).banks = s.banks := rfl
@[simp] theorem State.setY_ppu (s : State) (v : Byte) : (s.setY v).ppu = s.ppu := rfl
@[simp] theorem State.setY_io (s : State) (v : Byte) : (s.setY v).io = s.io := rfl
@[simp] theorem State.setY_mapper (s : State) (v : Byte) : (s.setY v).mapper = s.mapper := rfl
@[simp] theorem State.setY_operandWrap (s : State) (v : Byte) : (s.setY v).operandWrap = s.operandWrap := rfl
@[simp] theorem State.setY_intCycles (s : State) (v : Byte) : (s.setY v).intCycles = s.intCycles := rfl
@[simp] theorem State.setY_cycReset (s : State) (v : Byte) : (s.setY v).cycReset = s.cycReset := rfl

@[simp] theorem State.setP_pc (s : State) (v : Byte) : (s.setP v).pc = s.pc := rfl
@[simp] theorem State.setP_sp (s : State) (v : Byte) : (s.setP v).sp = s.sp := rfl
@[simp] theorem State.setP_a (s : State) (v : Byte) : (s.setP v).a = s.a := rfl
@[simp] theorem State.setP_x (s : State) (v : Byte) : (s.setP v).x = s.x := rfl
@[simp] theorem State.setP_y (s : State) (v : Byte) : (s.setP v).y = s.y := rfl
@[simp] theorem State.setP_p (s : State) (v : Byte) : (s.setP v).p = v := rfl
@[simp] theorem State.setP_cyc (s : State) (v : Byte) : (s.setP v).cyc = s.cyc := rfl
@[simp] theorem State.setP_ram (s : State) (v : Byte) : (s.setP v).ram = s.ram := rfl
@[simp] theorem State.setP_prg (s : State) (v : Byte) : (s.setP v).prg = s.prg := rfl
@[simp] theorem State.setP_banks (s : State) (v : Byte) : (s.setP v).banks = s.banks := rfl
@[simp] theorem State.setP_ppu (s : State) (v : Byte) : (s.setP v).ppu = s.ppu := rfl
@[simp] theorem State.setP_io (s : State) (v : Byte) : (s.setP v).io = s.io := rfl
@[simp] theorem State.setP_mapper (s : State) (v : Byte) : (s.setP v).mapper = s.mapper := rfl
@[simp] theorem State.setP_operandWrap (s : State) (v : Byte) : (s.setP v).operandWrap = s.operandWrap := rfl
@[simp] theorem State.setP_intCycles (s : State) (v : Byte) : (s.setP v).intCycles = s.intCycles := rfl
@[simp] theorem State.setP_cycReset (s : State) (v : Byte) : (s.setP v).cycReset = s.cycReset := rfl

@[simp] theorem State.addCycles_pc (s : State) (n : Nat) : (s.addCycles n).pc = s.pc := rfl
@[simp] theorem State.addCycles_sp (s : State) (n : Nat) : (s.addCycles n).sp = s.sp := rfl
@[simp] theorem State.addCycles_a (s : State) (n : Nat) : (s.addCycles n).a = s.a := rfl
@[simp] theorem State.addCycles_x (s : State) (n : Nat) : (s.addCycles n).x = s.x := rfl
@[simp] theorem State.addCycles_y (s : State) (n : Nat) : (s.addCycles n).y = s.y := rfl
@[simp] theorem State.addCycles_p (s : State) (n : Nat) : (s.addCycles n).p = s.p := rfl
@[simp] theorem State.addCycles_cyc (s : State) (n : Nat) : (s.addCycles n).cyc = s.cyc + n := rfl
@[simp] theorem State.addCycles_ram (s : State) (n : Nat) : (s.addCycles n).ram = s.ram := rfl
@[simp] theorem State.addCycles_prg (s : State) (n : Nat) : (s.addCycles n).prg = s.prg := rfl
@[simp] theorem State.addCycles_banks (s : State) (n : Nat) : (s.addCycles n).banks = s.banks := rfl
@[simp] theorem State.addCycles_ppu (s : State) (n : Nat) : (s.addCycles n).ppu = s.ppu := rfl
@[simp] theorem State.addCycles_io (s : State) (n : Nat) : (s.addCycles n).io = s.io := rfl
@[simp] theorem State.addCycles_mapper (s : State) (n : Nat) : (s.addCycles n).mapper = s.mapper := rfl
@[simp] theorem State.addCycles_operandWrap (s : State) (n : Nat) : (s.addCycles n).operandWrap = s.operandWrap := rfl
@[simp] theorem State.addCycles_intCycles (s : State) (n : Nat) : (s.addCycles n).intCycles = s.intCycles := rfl
@[simp] theorem State.addCycles_cycReset (s : State) (n : Nat) : (s.addCycles n).cycReset = s.cycReset := rfl

@[simp] theorem State.setRam_pc (s : State) (m : Memory) : (s.setRam m).pc = s.pc := rfl
@[simp] theorem State.setRam_sp (s : State) (m : Memory) : (s.setRam m).sp = s.sp := rfl
@[simp] theorem State.setRam_a (s : State) (m : Memory) : (s.setRam m).a = s.a := rfl
@[simp] theorem State.setRam_x (s : State) (m : Memory) : (s.setRam m).x = s.x := rfl
@[simp] theorem State.setRam_y (s : State) (m : Memory) : (s.setRam m).y = s.y := rfl
@[simp] theorem State.setRam_p (s : State) (m : Memory) : (s.setRam m).p = s.p := rfl
@[simp] theorem State.setRam_cyc (s : State) (m : Memory) : (s.setRam m).cyc = s.cyc := rfl
@[simp] theorem State.setRam_ram (s : State) (m : Memory) : (s.setRam m).ram = m := rfl
@[simp] theorem State.setRam_prg (s : State) (m : Memory) : (s.setRam m).prg = s.prg := rfl
@[simp] theorem State.setRam_banks (s : State) (m : Memory) : (s.setRam m).banks = s.banks := rfl
@[simp] theorem State.setRam_ppu (s : State) (m : Memory) : (s.setRam m).ppu = s.ppu := rfl
@[simp] theorem State.setRam_io (s : State) (m : Memory) : (s.setRam m).io = s.io := rfl
@[simp] theorem State.setRam_mapper (s : State) (m : Memory) : (s.setRam m).mapper = s.mapper := rfl
@[simp] theorem State.setRam_operandWrap (s : State) (m : Memory) : (s.setRam m).operandWrap = s.operandWrap := rfl
@[simp] theorem State.setRam_intCycles (s : State) (m : Memory) : (s.setRam m).intCycles = s.intCycles := rfl
@[simp] theorem State.setRam_cycReset (s : State) (m : Memory) : (s.setRam m).cycReset = s.cycReset := rfl

@[simp] theorem State.setFlag_pc (s : State) (f : Flag) (b : Bool) : (s.setFlag f b).pc = s.pc := rfl
@[simp] theorem State.setFlag_sp (s : State) (f : Flag) (b : Bool) : (s.setFlag f b).sp = s.sp := rfl
@[simp] theorem State.setFlag_a (s : State) (f : Flag) (b : Bool) : (s.setFlag f b).a = s.a := rfl
@[simp] theorem State.setFlag_x (s : State) (f : Flag) (b : Bool) : (s.setFlag f b).x = s.x := rfl
@[simp] theorem State.setFlag_y (s : State) (f : Flag) (b : Bool) : (s.setFlag f b).y = s.y := rfl
@[simp] theorem State.setFlag_p (s : State) (f : Flag) (b : Bool) : (s.setFlag f b).p = putFlag s.p f b := rfl
@[simp] theorem State.setFlag_cyc (s : State) (f : Flag) (b : Bool) : (s.setFlag f b).cyc = s.cyc := rfl
@[simp] theorem State.setFlag_ram (s : State) (f : Flag) (b : Bool) : (s.setFlag f b).ram = s.ram := rfl
@[simp] theorem State.setFlag_prg (s : State) (f : Flag) (b : Bool) : (s.setFlag f b).prg = s.prg := rfl
@[simp] theorem State.setFlag_banks (s : State) (f : Flag) (b : Bool) : (s.setFlag f b).banks = s.banks := rfl
@[simp] theorem State.setFlag_ppu (s : State) (f : Flag) (b : Bool) : (s.setFlag f b).ppu = s.ppu := rfl
@[simp] theorem State.setFlag_io (s : State) (f : Flag) (b : Bool) : (s.setFlag f b).io = s.io := rfl
@[simp] theorem State.setFlag_mapper (s : State) (f : Flag) (b : Bool) : (s.setFlag f b).mapper = s.mapper := rfl
@[simp] theorem State.setFlag_operandWrap (s : State) (f : Flag) (b : Bool) : (s.setFlag f b).operandWrap = s.operandWrap := rfl
@[simp] theorem State.setFlag_intCycles (s : State) (f : Flag) (b : Bool) : (s.setFlag f b).intCycles = s.intCycles := rfl
@[simp] theorem State.setFlag_cycReset (s : State) (f : Flag) (b : Bool) : (s.setFlag f b).cycReset = s.cycReset := rfl

@[simp] theorem State.setZN_pc (s : State) (r : Byte) : (s.setZN r).pc = s.pc := rfl
@[simp] theorem State.setZN_sp (s : State) (r : Byte) : (s.setZN r).sp = s.sp := rfl
@[simp] theorem State.setZN_a (s : State) (r : Byte) : (s.setZN r).a = s.a := rfl
@[simp] theorem State.setZN_x (s : State) (r : Byte) : (s.setZN r).x = s.x := rfl
@[simp] theorem State.setZN_y (s : State) (r : Byte) : (s.setZN r).y = s.y := rfl
@[simp] theorem State.setZN_p (s : State) (r : Byte) : (s.setZN r).p = znFlags s.p r := rfl
@[simp] theorem State.setZN_cyc (s : State) (r : Byte) : (s.setZN r).cyc = s.cyc := rfl
@[simp] theorem State.setZN_ram (s : State) (r : Byte) : (s.setZN r).ram = s.ram := rfl
@[simp] theorem State.setZN_prg (s : State) (r : Byte) : (s.setZN r).prg = s.prg := rfl
@[simp] theorem State.setZN_banks (s : State) (r : Byte) : (s.setZN r).banks = s.banks := rfl
@[simp] theorem State.setZN_ppu (s : State) (r : Byte) : (s.setZN r).ppu = s.ppu := rfl
@[simp] theorem State.setZN_io (s : State) (r : Byte) : (s.setZN r).io = s.io := rfl
@[simp] theorem State.setZN_mapper (s : State) (r : Byte) : (s.setZN r).mapper = s.mapper := rfl
@[simp] theorem State.setZN_operandWrap (s : State) (r : Byte) : (s.setZN r).operandWrap = s.operandWrap := rfl
@[simp] theorem State.setZN_intCycles (s : State) (r : Byte) : (s.setZN r).intCycles = s.intCycles := rfl
@[simp] theorem State.setZN_cycReset (s : State) (r : Byte) : (s.setZN r).cycReset = s.cycReset := rfl

@[simp] theorem State.advance_pc (s : State) (d : Descriptor) : (s.advance d).pc = s.pc + BitVec.ofNat 16 d.length := rfl
@[simp] theorem State.advance_sp (s : State) (d : Descriptor) : (s.advance d).sp = s.sp := rfl
@[simp] theorem State.advance_a (s : State) (d : Descriptor) : (s.advance d).a = s.a := rfl
@[simp] theorem State.advance_x (s : State) (d : Descriptor) : (s.advance d).x = s.x := rfl
@[simp] theorem State.advance_y (s : State) (d : Descriptor) : (s.advance d).y = s.y := rfl
@[simp] theorem State.advance_p (s : State) (d : Descriptor) : (s.advance d).p = s.p := rfl
@[simp] theorem State.advance_cyc (s : State) (d : Descriptor) : (s.advance d).cyc = s.cyc + d.cycles := rfl
@[simp] theorem State.advance_ram (s : State) (d : Descriptor) : (s.advance d).ram = s.ram := rfl
@[simp] theorem State.advance_prg (s : State) (d : Descriptor) : (s.advance d).prg = s.prg := rfl
@[simp] theorem State.advance_banks (s : State) (d : Descriptor) : (s.advance d).banks = s.banks := rfl
@[simp] theorem State.advance_ppu (s : State) (d : Descriptor) : (s.advance d).ppu = s.ppu := rfl
@[simp] theorem State.advance_io (s : State) (d : Descriptor) : (s.advance d).io = s.io := rfl
@[simp] theorem State.advance_mapper (s : State) (d : Descriptor) : (s.advance d).mapper = s.mapper := rfl
@[simp] theorem State.advance_operandWrap (s : State) (d : Descriptor) : (s.advance d).operandWrap = s.operandWrap := rfl
@[simp] theorem State.advance_intCycles (s : State) (d : Descriptor) : (s.advance d).intCycles = s.intCycles := rfl
@[simp] theorem State.advance_cycReset (s : State) (d : Descriptor) : (s.advance d).cycReset = s.cycReset := rfl

@[simp] theorem State.setPc_route (s : State) (v : Word) (w : Word) : (s.setPc v).route w = s.route w := rfl
@[simp] theorem State.setSp_route (s : State) (v : Byte) (w : Word) : (s.setSp v).route w = s.route w := rfl
@[simp] theorem State.setA_route (s : State) (v : Byte) (w : Word) : (s.setA v).route w = s.route w := rfl
@[simp] theorem State.setX_route (s : State) (v : Byte) (w : Word) : (s.setX v).route w = s.route w := rfl
@[simp] theorem State.setY_route (s : State) (v : Byte) (w : Word) : (s.setY v).route w = s.route w := rfl
@[simp] theorem State.setP_route (s : State) (v : Byte) (w : Word) : (s.setP v).route w = s.route w := rfl
@[simp] theorem State.addCycles_route (s : State) (n : Nat) (w : Word) : (s.addCycles n).route w = s.route w := rfl
@[simp] theorem State.setRam_route (s : State) (m : Memory) (w : Word) : (s.setRam m).route w = s.route w := rfl
@[simp] theorem State.setFlag_route (s : State) (f : Flag) (b : Bool) (w : Word) : (s.setFlag f b).route w = s.route w := rfl
@[simp] theorem State.setZN_route (s : State) (r : Byte) (w : Word) : (s.setZN r).route w = s.route w := rfl
@[simp] theorem State.advance_route (s : State) (d : Descriptor) (w : Word) : (s.advance d).route w = s.route w := rfl

end Sys2Proof.Machine
end

