-- ==== Sys2Proof/Laws/Bus.lean ====
section
/-! SUPPORT. The router and the bus: the places the router gives, what an access answers where it has no side effect,
and all that an access can change. -/

namespace Sys2Proof.Machine

/-- An offset the router gives lies inside its device (20_memory.md R30, R31, R33): RAM, PPU, I/O, ROM, mapper. -/
theorem route_offset {banks : Banks} {hasMapper : Bool} {a : Word} {d : DeviceId} {o : Nat}
    (h : route banks hasMapper a = .ok (d, o)) :
    o < (match d with
      | .ram => Config.ramSize
      | .ppu => Config.ppuRegs
      | .io => Config.ioRegs
      | .rom => banks.prgSize
      | .mapper => Config.bankSize) := by
  have ha : a.toNat < 0x10000 := a.isLt
  unfold route at h
  split at h
  · cases h
    simp only [Config.ramSize]
    omega
  · split at h
    · cases h
      simp only [Config.ppuRegs]
      omega
    · split at h
      · cases h
        simp only [Config.ioRegs]
        omega
      · split at h
        · cases h
          cases banks <;> simp only [Banks.prgSize, Banks.romOffset, Config.bankSize] at * <;> omega
        · split at h
          · split at h
            · cases h
              simp only [Config.bankSize]
              omega
            · cases h
          · cases h

/-- The router's mapper region exists with one bank and a mapper only (20_memory.md R33). -/
theorem route_mapper {banks : Banks} {hasMapper : Bool} {a : Word} {o : Nat}
    (h : route banks hasMapper a = .ok (.mapper, o)) : banks = .one ∧ hasMapper = true := by
  unfold route at h
  by_cases h1 : a.toNat ≤ 0x1FFF
  · simp [h1] at h
  · by_cases h2 : a.toNat ≤ 0x3FFF
    · simp [h1, h2] at h
    · by_cases h3 : a.toNat ≤ 0x4017
      · simp [h1, h2, h3] at h
      · by_cases h4 : banks.romOffset ≤ a.toNat
        · simp [h1, h2, h3, h4] at h
        · simp only [h1, h2, h3, h4, if_false] at h
          split at h
          · rename_i h5
            cases hasMapper with
            | false => simp at h
            | true => exact ⟨h5.1, rfl⟩
          · cases h

theorem ramLoad_of_lt {ram : Memory} {o : Nat} (h : o < Config.ramSize) : ramLoad ram o = .ok (ram.read o) := by
  simp [ramLoad, h]

theorem romLoad_of_lt {banks : Banks} {prg : Memory} {o : Nat} (h : o < banks.prgSize) :
    romLoad banks prg o = .ok (prg.read o) := by
  simp [romLoad, h]

/-- A load with no side effect answers that byte and changes nothing (20_memory.md R35, R46). -/
theorem busLoad_quiet {s : State} {a : Word} {v : Byte} (h : s.quietByte? a = some v) : busLoad a s = .ok v s := by
  unfold State.quietByte? at h
  unfold busLoad
  cases hr : s.route a with
  | error e => simp [hr] at h
  | ok p =>
    obtain ⟨d, o⟩ := p
    have hb := route_offset hr
    simp only [hr] at h ⊢
    cases d with
    | ram => simpa [deviceLoad, ramLoad_of_lt hb] using h
    | rom => simpa [deviceLoad, romLoad_of_lt hb] using h
    | ppu =>
      cases hp : s.ppu with
      | external ev => simp [hp, RegBlock.quiet?] at h
      | registers rs =>
        have e : (State.mk s.pc s.sp s.a s.x s.y s.p s.cyc s.ram s.prg s.banks (.registers rs) s.io s.mapper
            s.operandWrap s.intCycles s.cycReset) = s := by rw [← hp]
        simp only [hp, RegBlock.quiet?, Option.map_eq_some_iff] at h
        obtain ⟨r, hro, rfl⟩ := h
        simp only [deviceLoad, hp, RegBlock.load, hro, e]
    | io =>
      cases hp : s.io with
      | external ev => simp [hp, RegBlock.quiet?] at h
      | registers rs =>
        have e : (State.mk s.pc s.sp s.a s.x s.y s.p s.cyc s.ram s.prg s.banks s.ppu (.registers rs) s.mapper
            s.operandWrap s.intCycles s.cycReset) = s := by rw [← hp]
        simp only [hp, RegBlock.quiet?, Option.map_eq_some_iff] at h
        obtain ⟨r, hro, rfl⟩ := h
        simp only [deviceLoad, hp, RegBlock.load, hro, e]
    | mapper =>
      cases hp : s.mapper with
      | absent => simp [hp, Mapper.quiet?] at h
      | external ev => simp [hp, Mapper.quiet?] at h
      | prgMirror =>
        have e : (State.mk s.pc s.sp s.a s.x s.y s.p s.cyc s.ram s.prg s.banks s.ppu s.io .prgMirror
            s.operandWrap s.intCycles s.cycReset) = s := by rw [← hp]
        simp only [hp, Mapper.quiet?, Option.some.injEq] at h
        have hone := (route_mapper hr).1
        have hlt : o < s.banks.prgSize := by simpa [hone, Banks.prgSize] using hb
        simp only [deviceLoad, hp, Mapper.load, romLoad_of_lt hlt, h, e]

theorem busLoad16_quiet {s : State} {a w : Word} (h : s.quietWord? a = some w) : busLoad16 a s = .ok w s := by
  unfold State.quietWord? at h
  split at h
  · rename_i l hh hl hhh
    cases h
    simp [busLoad16, busLoad_quiet hl, busLoad_quiet hhh]
  · cases h

/-- A store with no side effect beyond its byte answers that state (20_memory.md R36). -/
theorem busStore_quiet {s t : State} {a : Word} {v : Byte} (h : s.quietStore? a v = some t) :
    busStore a v s = .ok () t := by
  unfold State.quietStore? at h
  unfold busStore
  cases hr : s.route a with
  | error e => simp [hr] at h
  | ok p =>
    obtain ⟨d, o⟩ := p
    have hb := route_offset hr
    simp only [hr] at h ⊢
    cases d with
    | ram =>
      simp only [Option.some.injEq] at h
      have hlt : o < Config.ramSize := hb
      simp only [deviceStore, ramStore, hlt, if_true]
      rw [← h]
      rfl
    | rom => simp at h
    | mapper => simp at h
    | ppu =>
      cases hp : s.ppu with
      | external ev => simp [hp] at h
      | registers rs =>
        simp only [hp, Option.map_eq_some_iff] at h
        obtain ⟨r, hro, rfl⟩ := h
        simp only [deviceStore, hp, RegBlock.store, hro]
    | io =>
      cases hp : s.io with
      | external ev => simp [hp] at h
      | registers rs =>
        simp only [hp, Option.map_eq_some_iff] at h
        obtain ⟨r, hro, rfl⟩ := h
        simp only [deviceStore, hp, RegBlock.store, hro]

/-- All that a load can change: the state of the devices that have one, never whether a mapper is installed. -/
def OnlyDevices (s t : State) : Prop :=
  t = { s with ppu := t.ppu, io := t.io, mapper := t.mapper } ∧ t.mapper.present = s.mapper.present

theorem Mapper.load_present (banks : Banks) (prg : Memory) (d : Mapper) (o : Nat) :
    (d.load banks prg o).2.present = d.present := by cases d <;> rfl

theorem Mapper.store_present (banks : Banks) (d : Mapper) (o : Nat) (v : Byte) :
    (d.store banks o v).2.present = d.present := by cases d <;> rfl

theorem deviceLoad_onlyDevices (d : DeviceId) (o : Nat) (s : State) : OnlyDevices s (deviceLoad d o s).2 := by
  cases d <;> simp [OnlyDevices, deviceLoad, Mapper.load_present]

/-- All that a store can change: RAM and the state of the devices that have one. -/
def OnlyBus (s t : State) : Prop :=
  t = { s with ram := t.ram, ppu := t.ppu, io := t.io, mapper := t.mapper } ∧ t.mapper.present = s.mapper.present

theorem deviceStore_onlyBus (d : DeviceId) (o : Nat) (v : Byte) (s : State) : OnlyBus s (deviceStore d o v s).2 := by
  cases d with
  | ram =>
    simp only [deviceStore]
    split <;> simp [OnlyBus]
  | ppu => simp [OnlyBus, deviceStore]
  | io => simp [OnlyBus, deviceStore]
  | rom => simp [OnlyBus, deviceStore]
  | mapper => simp [OnlyBus, deviceStore, Mapper.store_present]

/-- What a load leaves, whether it answers or raises. -/
theorem busLoad_state {s : State} {a : Word} :
    (∀ v t, busLoad a s = .ok v t → ∃ d o, s.route a = .ok (d, o) ∧ t = (deviceLoad d o s).2) ∧
    (∀ c t, busLoad a s = .error c t → t = s ∨ ∃ d o, s.route a = .ok (d, o) ∧ t = (deviceLoad d o s).2) := by
  unfold busLoad
  cases hr : s.route a with
  | error e => simp [eq_comm]
  | ok p =>
    obtain ⟨d, o⟩ := p
    cases hd : deviceLoad d o s with
    | mk r u =>
      cases r with
      | ok v => simp +contextual [eq_comm, hd]
      | error e => simp +contextual [eq_comm, hd]

/-- What a store leaves, whether it answers or raises. -/
theorem busStore_state {s : State} {a : Word} {v : Byte} :
    (∀ u t, busStore a v s = .ok u t → ∃ d o, s.route a = .ok (d, o) ∧ t = (deviceStore d o v s).2) ∧
    (∀ c t, busStore a v s = .error c t → t = s ∨ ∃ d o, s.route a = .ok (d, o) ∧ t = (deviceStore d o v s).2) := by
  unfold busStore
  cases hr : s.route a with
  | error e => simp [eq_comm]
  | ok p =>
    obtain ⟨d, o⟩ := p
    cases hd : deviceStore d o v s with
    | mk r u =>
      cases r with
      | ok v => simp +contextual [eq_comm, hd]
      | error e => simp +contextual [eq_comm, hd]

end Sys2Proof.Machine
end

