-- ==== Sys2Proof/Laws/Exec.lean ====
section
/-! SUPPORT. What each arm of exec is: the handler of its instruction run after the advance. -/

namespace Sys2Proof.Machine

theorem exec_lda (m : Mode) (s : State) : exec (.lda m) s = runInstr (.lda m) ldaOp s := rfl

theorem exec_ldx (m : Mode) (s : State) : exec (.ldx m) s = runInstr (.ldx m) ldxOp s := rfl

theorem exec_ldy (m : Mode) (s : State) : exec (.ldy m) s = runInstr (.ldy m) ldyOp s := rfl

theorem exec_sta (m : Mode) (s : State) : exec (.sta m) s = runInstr (.sta m) staOp s := rfl

theorem exec_stx (m : Mode) (s : State) : exec (.stx m) s = runInstr (.stx m) stxOp s := rfl

theorem exec_sty (m : Mode) (s : State) : exec (.sty m) s = runInstr (.sty m) styOp s := rfl

theorem exec_tax (s : State) : exec (.tax) s = runInstr (.tax) taxOp s := rfl

theorem exec_tay (s : State) : exec (.tay) s = runInstr (.tay) tayOp s := rfl

theorem exec_txa (s : State) : exec (.txa) s = runInstr (.txa) txaOp s := rfl

theorem exec_tya (s : State) : exec (.tya) s = runInstr (.tya) tyaOp s := rfl

theorem exec_tsx (s : State) : exec (.tsx) s = runInstr (.tsx) tsxOp s := rfl

theorem exec_txs (s : State) : exec (.txs) s = runInstr (.txs) txsOp s := rfl

theorem exec_adc (m : Mode) (s : State) : exec (.adc m) s = runInstr (.adc m) adcOp s := rfl

theorem exec_sbc (m : Mode) (s : State) : exec (.sbc m) s = runInstr (.sbc m) sbcOp s := rfl

theorem exec_and (m : Mode) (s : State) : exec (.and m) s = runInstr (.and m) andOp s := rfl

theorem exec_ora (m : Mode) (s : State) : exec (.ora m) s = runInstr (.ora m) oraOp s := rfl

theorem exec_eor (m : Mode) (s : State) : exec (.eor m) s = runInstr (.eor m) eorOp s := rfl

theorem exec_bit (m : Mode) (s : State) : exec (.bit m) s = runInstr (.bit m) bitOp s := rfl

theorem exec_cmp (m : Mode) (s : State) : exec (.cmp m) s = runInstr (.cmp m) cmpOp s := rfl

theorem exec_cpx (m : Mode) (s : State) : exec (.cpx m) s = runInstr (.cpx m) cpxOp s := rfl

theorem exec_cpy (m : Mode) (s : State) : exec (.cpy m) s = runInstr (.cpy m) cpyOp s := rfl

theorem exec_inc (m : Mode) (s : State) : exec (.inc m) s = runInstr (.inc m) incOp s := rfl

theorem exec_dec (m : Mode) (s : State) : exec (.dec m) s = runInstr (.dec m) decOp s := rfl

theorem exec_inx (s : State) : exec (.inx) s = runInstr (.inx) inxOp s := rfl

theorem exec_iny (s : State) : exec (.iny) s = runInstr (.iny) inyOp s := rfl

theorem exec_dex (s : State) : exec (.dex) s = runInstr (.dex) dexOp s := rfl

theorem exec_dey (s : State) : exec (.dey) s = runInstr (.dey) deyOp s := rfl

theorem exec_asl (m : Mode) (s : State) : exec (.asl m) s = runInstr (.asl m) aslOp s := rfl

theorem exec_lsr (m : Mode) (s : State) : exec (.lsr m) s = runInstr (.lsr m) lsrOp s := rfl

theorem exec_rol (m : Mode) (s : State) : exec (.rol m) s = runInstr (.rol m) rolOp s := rfl

theorem exec_ror (m : Mode) (s : State) : exec (.ror m) s = runInstr (.ror m) rorOp s := rfl

theorem exec_jmp (m : Mode) (s : State) : exec (.jmp m) s = runInstr (.jmp m) jmpOp s := rfl

theorem exec_jsr (s : State) : exec (.jsr) s = runInstr (.jsr) jsrOp s := rfl

theorem exec_rts (s : State) : exec (.rts) s = runInstr (.rts) rtsOp s := rfl

theorem exec_bcc (s : State) : exec (.bcc) s = runInstr (.bcc) (branchOp .carry false) s := rfl

theorem exec_bcs (s : State) : exec (.bcs) s = runInstr (.bcs) (branchOp .carry true) s := rfl

theorem exec_beq (s : State) : exec (.beq) s = runInstr (.beq) (branchOp .zero true) s := rfl

theorem exec_bne (s : State) : exec (.bne) s = runInstr (.bne) (branchOp .zero false) s := rfl

theorem exec_bmi (s : State) : exec (.bmi) s = runInstr (.bmi) (branchOp .negative true) s := rfl

theorem exec_bpl (s : State) : exec (.bpl) s = runInstr (.bpl) (branchOp .negative false) s := rfl

theorem exec_bvc (s : State) : exec (.bvc) s = runInstr (.bvc) (branchOp .overflow false) s := rfl

theorem exec_bvs (s : State) : exec (.bvs) s = runInstr (.bvs) (branchOp .overflow true) s := rfl

theorem exec_pha (s : State) : exec (.pha) s = runInstr (.pha) phaOp s := rfl

theorem exec_php (s : State) : exec (.php) s = runInstr (.php) phpOp s := rfl

theorem exec_pla (s : State) : exec (.pla) s = runInstr (.pla) plaOp s := rfl

theorem exec_plp (s : State) : exec (.plp) s = runInstr (.plp) plpOp s := rfl

theorem exec_clc (s : State) : exec (.clc) s = runInstr (.clc) (flagOp .carry false) s := rfl

theorem exec_sec (s : State) : exec (.sec) s = runInstr (.sec) (flagOp .carry true) s := rfl

theorem exec_cli (s : State) : exec (.cli) s = runInstr (.cli) (flagOp .interruptDisable false) s := rfl

theorem exec_sei (s : State) : exec (.sei) s = runInstr (.sei) (flagOp .interruptDisable true) s := rfl

theorem exec_cld (s : State) : exec (.cld) s = runInstr (.cld) (flagOp .decimal false) s := rfl

theorem exec_sed (s : State) : exec (.sed) s = runInstr (.sed) (flagOp .decimal true) s := rfl

theorem exec_clv (s : State) : exec (.clv) s = runInstr (.clv) (flagOp .overflow false) s := rfl

theorem exec_nop (s : State) : exec (.nop) s = runInstr (.nop) nopOp s := rfl

theorem exec_brk (s : State) : exec (.brk) s = runInstr (.brk) brkOp s := rfl

theorem exec_rti (s : State) : exec (.rti) s = runInstr (.rti) rtiOp s := rfl

theorem exec_nopU (op : Byte) (s : State) : exec (.nopU op) s = runInstr (.nopU op) nopUOp s := rfl

theorem exec_laxU (m : Mode) (s : State) : exec (.laxU m) s = runInstr (.laxU m) (composite ldaOp taxOp) s := rfl

theorem exec_saxU (m : Mode) (s : State) : exec (.saxU m) s = runInstr (.saxU m) saxUOp s := rfl

theorem exec_sbcU (s : State) : exec (.sbcU) s = runInstr (.sbcU) sbcOp s := rfl

theorem exec_dcpU (m : Mode) (s : State) : exec (.dcpU m) s = runInstr (.dcpU m) (composite decOp cmpOp) s := rfl

theorem exec_iscU (m : Mode) (s : State) : exec (.iscU m) s = runInstr (.iscU m) (composite incOp sbcOp) s := rfl

theorem exec_sloU (m : Mode) (s : State) : exec (.sloU m) s = runInstr (.sloU m) (composite aslOp oraOp) s := rfl

theorem exec_rlaU (m : Mode) (s : State) : exec (.rlaU m) s = runInstr (.rlaU m) (composite rolOp andOp) s := rfl

theorem exec_sreU (m : Mode) (s : State) : exec (.sreU m) s = runInstr (.sreU m) (composite lsrOp eorOp) s := rfl

theorem exec_rraU (m : Mode) (s : State) : exec (.rraU m) s = runInstr (.rraU m) (composite rorOp adcOp) s := rfl

theorem exec_illegal (op : Byte) (s : State) : exec (.illegal op) s = runInstr (.illegal op) illegalOp s := rfl

end Sys2Proof.Machine
end

