-- ==== Sys2Proof/Laws/Table.lean ====
section
/-! SUPPORT. The instruction metadata ROM checked as a whole (30_encoding.md R54, R58, R62): one kernel evaluation over
the 256 opcodes for each law. -/

namespace Sys2Proof

/-- The encoder gives back the opcode of what the decoder reads, for every opcode. -/
theorem opcode_decode : ∀ op : Byte, (decode op).opcode = some op := by decide +kernel

/-- The decoder gives instructions of the table only. -/
theorem decode_wf : ∀ op : Byte, (decode op).wf = true := by decide +kernel

/-- A descriptor's length is the length of its mode's format (30_encoding.md R54). -/
theorem lookup_length : ∀ op : Byte, (lookup op).length = (lookup op).mode.length := by decide +kernel

/-- A descriptor carries its own opcode. -/
theorem lookup_opcode : ∀ op : Byte, (lookup op).opcode = op := by decide +kernel

theorem lookup_mode (op : Byte) : (lookup op).mode = (decode op).mode := rfl

theorem lookup_mnemonic (op : Byte) : (lookup op).mnemonic = (decode op).mnemonic := rfl

/-- The descriptor of a decoded opcode is the one the table gives. -/
theorem descriptor_decode (op : Byte) : (decode op).descriptor = some (lookup op) := by
  simp [Instr.descriptor, opcode_decode]

/-- An instruction with a descriptor has an opcode, and the descriptor is that opcode's. -/
theorem descriptor_eq_some {i : Instr} {d : Descriptor} :
    i.descriptor = some d ↔ ∃ op, i.opcode = some op ∧ lookup op = d := by
  simp [Instr.descriptor, Option.map_eq_some_iff]

end Sys2Proof
end

