-- ==== Sys2Proof/Laws/PerInstr.lean ====
section
/-! SUPPORT. Statements made for each instruction: a well-formed instruction has an opcode, and that opcode decodes to
it (30_encoding.md R58, R59). -/

namespace Sys2Proof.Laws.OpcodeRoundTrip

/-- The encoder gives a well-formed instruction an opcode that the decoder reads back as that instruction. -/
def Statement (i : Instr) : Prop := i.wf = true → ∃ op, i.opcode = some op ∧ decode op = i

/-- The same, as a check that runs. -/
def holds (i : Instr) : Bool := !i.wf || (i.opcode.map decode == some i)

theorem statement_of_check {i : Instr} (h : holds i = true) : Statement i := by
  intro hw
  simpa [holds, hw, Option.map_eq_some_iff] using h

theorem nopU_check : ∀ op : Byte, holds (.nopU op) = true := by decide +kernel

theorem illegal_check : ∀ op : Byte, holds (.illegal op) = true := by decide +kernel

theorem lda (m : Mode) : Statement (.lda m) := statement_of_check (by cases m <;> decide)

theorem ldx (m : Mode) : Statement (.ldx m) := statement_of_check (by cases m <;> decide)

theorem ldy (m : Mode) : Statement (.ldy m) := statement_of_check (by cases m <;> decide)

theorem sta (m : Mode) : Statement (.sta m) := statement_of_check (by cases m <;> decide)

theorem stx (m : Mode) : Statement (.stx m) := statement_of_check (by cases m <;> decide)

theorem sty (m : Mode) : Statement (.sty m) := statement_of_check (by cases m <;> decide)

theorem tax : Statement .tax := statement_of_check (by decide)

theorem tay : Statement .tay := statement_of_check (by decide)

theorem txa : Statement .txa := statement_of_check (by decide)

theorem tya : Statement .tya := statement_of_check (by decide)

theorem tsx : Statement .tsx := statement_of_check (by decide)

theorem txs : Statement .txs := statement_of_check (by decide)

theorem adc (m : Mode) : Statement (.adc m) := statement_of_check (by cases m <;> decide)

theorem sbc (m : Mode) : Statement (.sbc m) := statement_of_check (by cases m <;> decide)

theorem and (m : Mode) : Statement (.and m) := statement_of_check (by cases m <;> decide)

theorem ora (m : Mode) : Statement (.ora m) := statement_of_check (by cases m <;> decide)

theorem eor (m : Mode) : Statement (.eor m) := statement_of_check (by cases m <;> decide)

theorem bit (m : Mode) : Statement (.bit m) := statement_of_check (by cases m <;> decide)

theorem cmp (m : Mode) : Statement (.cmp m) := statement_of_check (by cases m <;> decide)

theorem cpx (m : Mode) : Statement (.cpx m) := statement_of_check (by cases m <;> decide)

theorem cpy (m : Mode) : Statement (.cpy m) := statement_of_check (by cases m <;> decide)

theorem inc (m : Mode) : Statement (.inc m) := statement_of_check (by cases m <;> decide)

theorem dec (m : Mode) : Statement (.dec m) := statement_of_check (by cases m <;> decide)

theorem inx : Statement .inx := statement_of_check (by decide)

theorem iny : Statement .iny := statement_of_check (by decide)

theorem dex : Statement .dex := statement_of_check (by decide)

theorem dey : Statement .dey := statement_of_check (by decide)

theorem asl (m : Mode) : Statement (.asl m) := statement_of_check (by cases m <;> decide)

theorem lsr (m : Mode) : Statement (.lsr m) := statement_of_check (by cases m <;> decide)

theorem rol (m : Mode) : Statement (.rol m) := statement_of_check (by cases m <;> decide)

theorem ror (m : Mode) : Statement (.ror m) := statement_of_check (by cases m <;> decide)

theorem jmp (m : Mode) : Statement (.jmp m) := statement_of_check (by cases m <;> decide)

theorem jsr : Statement .jsr := statement_of_check (by decide)

theorem rts : Statement .rts := statement_of_check (by decide)

theorem bcc : Statement .bcc := statement_of_check (by decide)

theorem bcs : Statement .bcs := statement_of_check (by decide)

theorem beq : Statement .beq := statement_of_check (by decide)

theorem bne : Statement .bne := statement_of_check (by decide)

theorem bmi : Statement .bmi := statement_of_check (by decide)

theorem bpl : Statement .bpl := statement_of_check (by decide)

theorem bvc : Statement .bvc := statement_of_check (by decide)

theorem bvs : Statement .bvs := statement_of_check (by decide)

theorem pha : Statement .pha := statement_of_check (by decide)

theorem php : Statement .php := statement_of_check (by decide)

theorem pla : Statement .pla := statement_of_check (by decide)

theorem plp : Statement .plp := statement_of_check (by decide)

theorem clc : Statement .clc := statement_of_check (by decide)

theorem sec : Statement .sec := statement_of_check (by decide)

theorem cli : Statement .cli := statement_of_check (by decide)

theorem sei : Statement .sei := statement_of_check (by decide)

theorem cld : Statement .cld := statement_of_check (by decide)

theorem sed : Statement .sed := statement_of_check (by decide)

theorem clv : Statement .clv := statement_of_check (by decide)

theorem nop : Statement .nop := statement_of_check (by decide)

theorem brk : Statement .brk := statement_of_check (by decide)

theorem rti : Statement .rti := statement_of_check (by decide)

theorem nopU (op : Byte) : Statement (.nopU op) := statement_of_check (nopU_check op)

theorem laxU (m : Mode) : Statement (.laxU m) := statement_of_check (by cases m <;> decide)

theorem saxU (m : Mode) : Statement (.saxU m) := statement_of_check (by cases m <;> decide)

theorem sbcU : Statement .sbcU := statement_of_check (by decide)

theorem dcpU (m : Mode) : Statement (.dcpU m) := statement_of_check (by cases m <;> decide)

theorem iscU (m : Mode) : Statement (.iscU m) := statement_of_check (by cases m <;> decide)

theorem sloU (m : Mode) : Statement (.sloU m) := statement_of_check (by cases m <;> decide)

theorem rlaU (m : Mode) : Statement (.rlaU m) := statement_of_check (by cases m <;> decide)

theorem sreU (m : Mode) : Statement (.sreU m) := statement_of_check (by cases m <;> decide)

theorem rraU (m : Mode) : Statement (.rraU m) := statement_of_check (by cases m <;> decide)

theorem illegal (op : Byte) : Statement (.illegal op) := statement_of_check (illegal_check op)

end Sys2Proof.Laws.OpcodeRoundTrip
end

