-- ==== Sys2Proof/Laws/Instr.lean ====
section
/-! SUPPORT. What the descriptor of an instruction is: the facts every proof about a handler needs, for all instructions
at once. -/

namespace Sys2Proof

theorem opcode_roundTrip (i : Instr) : Laws.OpcodeRoundTrip.Statement i := by
  cases i with
  | lda m => exact Laws.OpcodeRoundTrip.lda m
  | ldx m => exact Laws.OpcodeRoundTrip.ldx m
  | ldy m => exact Laws.OpcodeRoundTrip.ldy m
  | sta m => exact Laws.OpcodeRoundTrip.sta m
  | stx m => exact Laws.OpcodeRoundTrip.stx m
  | sty m => exact Laws.OpcodeRoundTrip.sty m
  | tax => exact Laws.OpcodeRoundTrip.tax
  | tay => exact Laws.OpcodeRoundTrip.tay
  | txa => exact Laws.OpcodeRoundTrip.txa
  | tya => exact Laws.OpcodeRoundTrip.tya
  | tsx => exact Laws.OpcodeRoundTrip.tsx
  | txs => exact Laws.OpcodeRoundTrip.txs
  | adc m => exact Laws.OpcodeRoundTrip.adc m
  | sbc m => exact Laws.OpcodeRoundTrip.sbc m
  | and m => exact Laws.OpcodeRoundTrip.and m
  | ora m => exact Laws.OpcodeRoundTrip.ora m
  | eor m => exact Laws.OpcodeRoundTrip.eor m
  | bit m => exact Laws.OpcodeRoundTrip.bit m
  | cmp m => exact Laws.OpcodeRoundTrip.cmp m
  | cpx m => exact Laws.OpcodeRoundTrip.cpx m
  | cpy m => exact Laws.OpcodeRoundTrip.cpy m
  | inc m => exact Laws.OpcodeRoundTrip.inc m
  | dec m => exact Laws.OpcodeRoundTrip.dec m
  | inx => exact Laws.OpcodeRoundTrip.inx
  | iny => exact Laws.OpcodeRoundTrip.iny
  | dex => exact Laws.OpcodeRoundTrip.dex
  | dey => exact Laws.OpcodeRoundTrip.dey
  | asl m => exact Laws.OpcodeRoundTrip.asl m
  | lsr m => exact Laws.OpcodeRoundTrip.lsr m
  | rol m => exact Laws.OpcodeRoundTrip.rol m
  | ror m => exact Laws.OpcodeRoundTrip.ror m
  | jmp m => exact Laws.OpcodeRoundTrip.jmp m
  | jsr => exact Laws.OpcodeRoundTrip.jsr
  | rts => exact Laws.OpcodeRoundTrip.rts
  | bcc => exact Laws.OpcodeRoundTrip.bcc
  | bcs => exact Laws.OpcodeRoundTrip.bcs
  | beq => exact Laws.OpcodeRoundTrip.beq
  | bne => exact Laws.OpcodeRoundTrip.bne
  | bmi => exact Laws.OpcodeRoundTrip.bmi
  | bpl => exact Laws.OpcodeRoundTrip.bpl
  | bvc => exact Laws.OpcodeRoundTrip.bvc
  | bvs => exact Laws.OpcodeRoundTrip.bvs
  | pha => exact Laws.OpcodeRoundTrip.pha
  | php => exact Laws.OpcodeRoundTrip.php
  | pla => exact Laws.OpcodeRoundTrip.pla
  | plp => exact Laws.OpcodeRoundTrip.plp
  | clc => exact Laws.OpcodeRoundTrip.clc
  | sec => exact Laws.OpcodeRoundTrip.sec
  | cli => exact Laws.OpcodeRoundTrip.cli
  | sei => exact Laws.OpcodeRoundTrip.sei
  | cld => exact Laws.OpcodeRoundTrip.cld
  | sed => exact Laws.OpcodeRoundTrip.sed
  | clv => exact Laws.OpcodeRoundTrip.clv
  | nop => exact Laws.OpcodeRoundTrip.nop
  | brk => exact Laws.OpcodeRoundTrip.brk
  | rti => exact Laws.OpcodeRoundTrip.rti
  | nopU op => exact Laws.OpcodeRoundTrip.nopU op
  | laxU m => exact Laws.OpcodeRoundTrip.laxU m
  | saxU m => exact Laws.OpcodeRoundTrip.saxU m
  | sbcU => exact Laws.OpcodeRoundTrip.sbcU
  | dcpU m => exact Laws.OpcodeRoundTrip.dcpU m
  | iscU m => exact Laws.OpcodeRoundTrip.iscU m
  | sloU m => exact Laws.OpcodeRoundTrip.sloU m
  | rlaU m => exact Laws.OpcodeRoundTrip.rlaU m
  | sreU m => exact Laws.OpcodeRoundTrip.sreU m
  | rraU m => exact Laws.OpcodeRoundTrip.rraU m
  | illegal op => exact Laws.OpcodeRoundTrip.illegal op

theorem nopU_isSome (op : Byte) : (Instr.nopU op).opcode.isSome = (Instr.nopU op).wf := by
  simp only [Instr.opcode, Instr.wf]
  split <;> simp_all

theorem illegal_isSome (op : Byte) : (Instr.illegal op).opcode.isSome = (Instr.illegal op).wf := by
  simp only [Instr.opcode, Instr.wf]
  split <;> simp_all

/-- The encoder and WellFormed agree on what the instructions of the table are. -/
theorem opcode_isSome (i : Instr) : i.opcode.isSome = i.wf := by
  cases i with
  | lda m => cases m <;> decide
  | ldx m => cases m <;> decide
  | ldy m => cases m <;> decide
  | sta m => cases m <;> decide
  | stx m => cases m <;> decide
  | sty m => cases m <;> decide
  | tax => decide
  | tay => decide
  | txa => decide
  | tya => decide
  | tsx => decide
  | txs => decide
  | adc m => cases m <;> decide
  | sbc m => cases m <;> decide
  | and m => cases m <;> decide
  | ora m => cases m <;> decide
  | eor m => cases m <;> decide
  | bit m => cases m <;> decide
  | cmp m => cases m <;> decide
  | cpx m => cases m <;> decide
  | cpy m => cases m <;> decide
  | inc m => cases m <;> decide
  | dec m => cases m <;> decide
  | inx => decide
  | iny => decide
  | dex => decide
  | dey => decide
  | asl m => cases m <;> decide
  | lsr m => cases m <;> decide
  | rol m => cases m <;> decide
  | ror m => cases m <;> decide
  | jmp m => cases m <;> decide
  | jsr => decide
  | rts => decide
  | bcc => decide
  | bcs => decide
  | beq => decide
  | bne => decide
  | bmi => decide
  | bpl => decide
  | bvc => decide
  | bvs => decide
  | pha => decide
  | php => decide
  | pla => decide
  | plp => decide
  | clc => decide
  | sec => decide
  | cli => decide
  | sei => decide
  | cld => decide
  | sed => decide
  | clv => decide
  | nop => decide
  | brk => decide
  | rti => decide
  | nopU op => exact nopU_isSome op
  | laxU m => cases m <;> decide
  | saxU m => cases m <;> decide
  | sbcU => decide
  | dcpU m => cases m <;> decide
  | iscU m => cases m <;> decide
  | sloU m => cases m <;> decide
  | rlaU m => cases m <;> decide
  | sreU m => cases m <;> decide
  | rraU m => cases m <;> decide
  | illegal op => exact illegal_isSome op

/-- All that a descriptor of an instruction says, and that the instruction is one of the table. -/
theorem descriptor_facts {i : Instr} {d : Descriptor} (h : i.descriptor = some d) :
    i.wf = true ∧ i.opcode = some d.opcode ∧ decode d.opcode = i ∧ lookup d.opcode = d ∧ d.mode = i.mode ∧
      d.mnemonic = i.mnemonic ∧ d.length = i.mode.length := by
  obtain ⟨op, hop, rfl⟩ := descriptor_eq_some.mp h
  have hw : i.wf = true := by rw [← opcode_isSome, hop]; rfl
  obtain ⟨op2, hop2, hd⟩ := opcode_roundTrip i hw
  rw [hop] at hop2
  cases hop2
  rw [lookup_opcode, lookup_length, lookup_mode, lookup_mnemonic, hd]
  exact ⟨hw, hop, rfl, rfl, rfl, rfl, rfl⟩

theorem descriptor_mode {i : Instr} {d : Descriptor} (h : i.descriptor = some d) : d.mode = i.mode :=
  (descriptor_facts h).2.2.2.2.1

/-- An instruction of the table has a descriptor. -/
theorem descriptor_of_wf {i : Instr} (h : i.wf = true) : ∃ d, i.descriptor = some d := by
  obtain ⟨op, hop, -⟩ := opcode_roundTrip i h
  exact ⟨lookup op, descriptor_eq_some.mpr ⟨op, hop, rfl⟩⟩

end Sys2Proof
end

