-- ==== Sys2Proof/Laws/Frames.lean ====
section
/-! SUPPORT. What a computation keeps, whether it answers or raises: a relation between the state before and the state
after, closed under sequencing. One lemma for each shared operation, in terms of the elementary changes it makes; a
frame or an invariant of an instruction is then its handler read line by line. -/

namespace Sys2Proof.Machine

variable {α β : Type} {R : State → State → Prop}

/-- The state a result carries. -/
def finalState : EStateM.Result Cause State α → State
  | .ok _ t => t
  | .error _ t => t

/-- Every run of the computation leaves a state related to the one it started from. -/
def Keeps (R : State → State → Prop) (m : M α) : Prop := ∀ s, R s (finalState (m s))

theorem Keeps.of_ok {m : M α} (h : Keeps R m) {s t : State} {v : α} (e : m s = .ok v t) : R s t := by
  simpa [e, finalState] using h s

theorem Keeps.of_error {m : M α} (h : Keeps R m) {s t : State} {c : Cause} (e : m s = .error c t) : R s t := by
  simpa [e, finalState] using h s

/-- A relation that holds of no change and of two changes in a row. -/
structure Frame (R : State → State → Prop) : Prop where
  refl : ∀ s, R s s
  trans : ∀ {s t u}, R s t → R t u → R s u

/-- A frame that allows what a load does: a device's own change, and a cycle of penalty. -/
structure LoadFrame (R : State → State → Prop) : Prop extends Frame R where
  load : ∀ d o s, R s (deviceLoad d o s).2
  cycles : ∀ n s, R s (s.addCycles n)

/-- A frame that also allows what a store does. -/
structure StoreFrame (R : State → State → Prop) : Prop extends LoadFrame R where
  store : ∀ d o v s, R s (deviceStore d o v s).2

theorem Keeps.pure (h : Frame R) (v : α) : Keeps R (pure v : M α) := fun s => h.refl s

theorem Keeps.raise (h : Frame R) (c : Cause) : Keeps R (raise c : M α) := fun s => h.refl s

theorem Keeps.readState (h : Frame R) : Keeps R Machine.readState := fun s => h.refl s

theorem Keeps.update {f : State → State} (h : ∀ s, R s (f s)) : Keeps R (Machine.update f) := h

theorem Keeps.applyByte {f : Byte → State → Byte × State} (h : ∀ v s, R s (f v s).2) (v : Byte) :
    Keeps R (Machine.applyByte f v) := h v

theorem Keeps.bind (h : Frame R) {m : M α} {f : α → M β} (hm : Keeps R m) (hf : ∀ v, Keeps R (f v)) :
    Keeps R (m >>= f) := by
  intro s
  rw [M.bind_apply]
  have h1 := hm s
  cases e : m s with
  | ok v t =>
    rw [e] at h1
    exact h.trans h1 (hf v t)
  | error c t =>
    rw [e] at h1
    exact h1

theorem Keeps.ite {c : Prop} [Decidable c] {m n : M α} (hm : Keeps R m) (hn : Keeps R n) :
    Keeps R (if c then m else n) := by
  split <;> assumption

theorem Keeps.busLoad (h : LoadFrame R) (a : Word) : Keeps R (Machine.busLoad a) := by
  intro s
  cases e : Machine.busLoad a s with
  | ok v t =>
    obtain ⟨d, o, -, rfl⟩ := busLoad_state.1 v t e
    exact h.load d o s
  | error c t =>
    rcases busLoad_state.2 c t e with rfl | ⟨d, o, -, rfl⟩
    · exact h.refl _
    · exact h.load d o s

theorem Keeps.busStore (h : StoreFrame R) (a : Word) (v : Byte) : Keeps R (Machine.busStore a v) := by
  intro s
  cases e : Machine.busStore a v s with
  | ok u t =>
    obtain ⟨d, o, -, rfl⟩ := busStore_state.1 u t e
    exact h.store d o v s
  | error c t =>
    rcases busStore_state.2 c t e with rfl | ⟨d, o, -, rfl⟩
    · exact h.refl _
    · exact h.store d o v s

theorem Keeps.busLoad16 (h : LoadFrame R) (a : Word) : Keeps R (Machine.busLoad16 a) :=
  .bind h.toFrame (.busLoad h a) fun _ => .bind h.toFrame (.busLoad h _) fun _ => .pure h.toFrame _

theorem Keeps.operand8 (h : LoadFrame R) : Keeps R Machine.operand8 :=
  .bind h.toFrame (.readState h.toFrame) fun _ => .busLoad h _

theorem Keeps.operand16 (h : LoadFrame R) : Keeps R Machine.operand16 :=
  .bind h.toFrame (.readState h.toFrame) fun _ => .ite (.busLoad16 h _) <|
    .bind h.toFrame (.busLoad h _) fun _ => .bind h.toFrame (.busLoad h _) fun _ => .pure h.toFrame _

theorem Keeps.penalty (h : LoadFrame R) (d : Descriptor) (r src : Word) : Keeps R (Machine.penalty d r src) :=
  .update fun s => h.cycles _ s

theorem Keeps.indexed (h : LoadFrame R) (d : Descriptor) (w : Word) (i : Byte) : Keeps R (Machine.indexed d w i) :=
  .bind h.toFrame (.penalty h d _ _) fun _ => .pure h.toFrame _

/-- The resolver makes loads and adds a penalty, nothing else (40_engine.md R72). -/
theorem Keeps.resolve (h : LoadFrame R) (d : Descriptor) : Keeps R (Machine.resolve d) := by
  have hf := h.toFrame
  unfold Machine.resolve
  cases d.mode with
  | accumulator => exact .bind hf (.readState hf) fun _ => .pure hf _
  | immediate => exact .bind hf (.operand8 h) fun _ => .pure hf _
  | zeroPage => exact .bind hf (.operand8 h) fun _ => .pure hf _
  | zeroPageX => exact .bind hf (.operand8 h) fun _ => .bind hf (.readState hf) fun _ => .pure hf _
  | zeroPageY => exact .bind hf (.operand8 h) fun _ => .bind hf (.readState hf) fun _ => .pure hf _
  | absolute => exact .operand16 h
  | absoluteX => exact .bind hf (.operand16 h) fun _ => .bind hf (.readState hf) fun _ => .indexed h d _ _
  | absoluteY => exact .bind hf (.operand16 h) fun _ => .bind hf (.readState hf) fun _ => .indexed h d _ _
  | indirect => exact .bind hf (.operand16 h) fun _ => .busLoad16 h _
  | indirectX => exact .bind hf (.operand8 h) fun _ => .bind hf (.readState hf) fun _ => .busLoad16 h _
  | indirectY =>
    exact .bind hf (.operand8 h) fun _ => .bind hf (.busLoad16 h _) fun _ =>
      .bind hf (.readState hf) fun _ => .indexed h d _ _
  | relative =>
    exact .bind hf (.operand8 h) fun _ => .bind hf (.readState hf) fun _ =>
      .bind hf (.penalty h d _ _) fun _ => .pure hf _
  | implied => exact .raise hf _
  | illegal => exact .raise hf _
  | unknown => exact .raise hf _

theorem Keeps.readOperand (h : LoadFrame R) (d : Descriptor) : Keeps R (Machine.readOperand d) :=
  .bind h.toFrame (.resolve h d) fun _ => .ite (.pure h.toFrame _) (.busLoad h _)

theorem Keeps.storeOperand (h : StoreFrame R) (d : Descriptor) (v : Byte) : Keeps R (Machine.storeOperand d v) :=
  .bind h.toFrame (.resolve h.toLoadFrame d) fun _ => .busStore h _ _

/-- Modify makes loads, one store, the function's own flag changes, and in Accumulator mode a write of A
(40_engine.md R76). -/
theorem Keeps.modifyOperand (h : StoreFrame R) (d : Descriptor) {f : Byte → State → Byte × State}
    (hf : ∀ v s, R s (f v s).2) (ha : d.mode = .accumulator → ∀ v s, R s (s.setA v)) :
    Keeps R (Machine.modifyOperand d f) := by
  have h0 := h.toFrame
  unfold Machine.modifyOperand
  split
  · rename_i hm
    exact .bind h0 (.readState h0) fun _ => .bind h0 (.applyByte hf _) fun _ => .update fun s => ha hm _ s
  · exact .bind h0 (.resolve h.toLoadFrame d) fun _ => .bind h0 (.busLoad h.toLoadFrame _) fun _ =>
      .bind h0 (.applyByte hf _) fun _ => .busStore h _ _

theorem Keeps.push (h : StoreFrame R) (hsp : ∀ v s, R s (s.setSp v)) (v : Byte) : Keeps R (Machine.push v) :=
  .bind h.toFrame (.readState h.toFrame) fun _ => .ite (.raise h.toFrame _) <|
    .bind h.toFrame (.busStore h _ _) fun _ => .update fun s => hsp _ s

theorem Keeps.pop (h : LoadFrame R) (hsp : ∀ v s, R s (s.setSp v)) : Keeps R Machine.pop :=
  .bind h.toFrame (.readState h.toFrame) fun _ => .ite (.raise h.toFrame _) <|
    .bind h.toFrame (.update fun s => hsp _ s) fun _ => .busLoad h _

theorem Keeps.pushWord (h : StoreFrame R) (hsp : ∀ v s, R s (s.setSp v)) (w : Word) : Keeps R (Machine.pushWord w) :=
  .bind h.toFrame (.push h hsp _) fun _ => .push h hsp _

theorem Keeps.popWord (h : LoadFrame R) (hsp : ∀ v s, R s (s.setSp v)) : Keeps R Machine.popWord :=
  .bind h.toFrame (.pop h hsp) fun _ => .bind h.toFrame (.pop h hsp) fun _ => .pure h.toFrame _

/-- The interrupt entry pushes, sets I and loads PC (60_exceptions.md R160). -/
theorem Keeps.intSeq (h : StoreFrame R) (hsp : ∀ v s, R s (s.setSp v)) (hpc : ∀ v s, R s (s.setPc v))
    (hi : ∀ s, R s (s.setFlag .interruptDisable true)) (ret : Word) (brk : Bool) (vec : Word) :
    Keeps R (Machine.intSeq ret brk vec) :=
  .bind h.toFrame (.pushWord h hsp _) fun _ => .bind h.toFrame (.readState h.toFrame) fun _ =>
    .bind h.toFrame (.push h hsp _) fun _ => .bind h.toFrame (.update hi) fun _ =>
      .bind h.toFrame (.busLoad16 h.toLoadFrame _) fun _ => .update fun s => hpc _ s

theorem Keeps.takeInterrupt (h : StoreFrame R) (hsp : ∀ v s, R s (s.setSp v)) (hpc : ∀ v s, R s (s.setPc v))
    (hi : ∀ s, R s (s.setFlag .interruptDisable true)) (vec : Word) : Keeps R (Machine.takeInterrupt vec) :=
  .bind h.toFrame (.readState h.toFrame) fun _ => .bind h.toFrame (.intSeq h hsp hpc hi _ _ _) fun _ =>
    .update fun s => h.cycles _ s

theorem Keeps.popStatus (h : LoadFrame R) (hsp : ∀ v s, R s (s.setSp v))
    (hp : ∀ v s, R s (s.setP (pulledStatus s.p v))) : Keeps R Machine.popStatus :=
  .bind h.toFrame (.pop h hsp) fun _ => .update fun s => hp _ s

theorem Keeps.returnSeq (h : LoadFrame R) (hsp : ∀ v s, R s (s.setSp v)) (hpc : ∀ v s, R s (s.setPc v))
    (hp : ∀ v s, R s (s.setP (pulledStatus s.p v))) : Keeps R Machine.returnSeq :=
  .bind h.toFrame (.popStatus h hsp hp) fun _ => .bind h.toFrame (.popWord h hsp) fun _ => .update fun s => hpc _ s

/-- An instruction keeps what its advance and its handler keep. -/
theorem runInstr_keeps (h : Frame R) {i : Instr} {handler : Descriptor → M Unit}
    (hadv : ∀ d s, R s (s.advance d)) (hh : ∀ d, i.descriptor = some d → Keeps R (handler d)) {s t : State}
    (e : runInstr i handler s = .next t) : R s t := by
  obtain ⟨d, hd, ht⟩ := runInstr_next e
  exact h.trans (hadv d s) ((hh d hd).of_ok ht)

/-- A frame that looks at nothing a load can change is a load frame. -/
theorem LoadFrame.of_onlyDevices (h : Frame R) (hd : ∀ s t, OnlyDevices s t → R s t)
    (hc : ∀ n s, R s (s.addCycles n)) : LoadFrame R :=
  { h with load := fun d o s => hd _ _ (deviceLoad_onlyDevices d o s), cycles := hc }

/-- A frame that looks at nothing a store can change is a store frame. -/
theorem StoreFrame.of_onlyBus (h : Frame R) (hb : ∀ s t, OnlyBus s t → R s t)
    (hc : ∀ n s, R s (s.addCycles n)) : StoreFrame R :=
  { h with
    load := fun d o s => hb _ _ (by
      obtain ⟨h1, h2⟩ := deviceLoad_onlyDevices d o s
      refine ⟨?_, h2⟩
      rw [h1])
    cycles := hc
    store := fun d o v s => hb _ _ (deviceStore_onlyBus d o v s) }

end Sys2Proof.Machine
end

