-- ==== Sys2Proof/Laws/Operands.lean ====
section
/-! SUPPORT. One spec lemma for each operand helper and stack primitive, where its accesses have no side effect. -/

namespace Sys2Proof.Machine

theorem operand8_quiet {s : State} {b : Byte} (h : s.quietByte? (s.pc - 1) = some b) : operand8 s = .ok b s := by
  simp only [operand8, M.bind_apply, readState_apply, busLoad_quiet h]

theorem operand16_quiet {s : State} {w : Word} (h : s.quietOperand16? = some w) : operand16 s = .ok w s := by
  unfold State.quietOperand16? at h
  simp only [operand16, M.bind_apply, readState_apply]
  by_cases hw : s.operandWrap = true
  · rw [if_pos hw] at h ⊢
    exact busLoad16_quiet h
  · rw [if_neg hw] at h ⊢
    split at h
    · rename_i l hh hl hhh
      cases h
      simp only [M.bind_apply, M.pure_apply, busLoad_quiet hl, busLoad_quiet hhh]
    · cases h

@[simp] theorem penaltyCycles_self (d : Descriptor) (r : Word) : penaltyCycles d r r = 0 := by simp [penaltyCycles]

theorem penaltyCycles_le (d : Descriptor) (r src : Word) : penaltyCycles d r src ≤ 1 := by
  unfold penaltyCycles
  split <;> omega

@[simp] theorem addCycles_zero (s : State) : s.addCycles 0 = s := rfl

@[simp] theorem addCycles_addCycles (s : State) (m n : Nat) : (s.addCycles m).addCycles n = s.addCycles (m + n) := by
  simp [State.addCycles, Nat.add_assoc]

/-- The resolver answers the value of 40_engine.md R72 and adds the penalty of R71, nothing else. -/
theorem resolve_quiet {s : State} {d : Descriptor} {r : Word} (h : s.effective? d = some r) :
    resolve d s = .ok r (s.addCycles (s.penaltyFor d r)) := by
  unfold State.effective? at h
  unfold resolve State.penaltyFor State.penaltySource
  cases hm : d.mode with
  | accumulator =>
    simp only [hm, Option.some.injEq] at h
    simp [h]
  | immediate =>
    simp only [hm, Option.map_eq_some_iff] at h
    obtain ⟨b, hb, rfl⟩ := h
    simp [operand8_quiet hb]
  | zeroPage =>
    simp only [hm, Option.map_eq_some_iff] at h
    obtain ⟨b, hb, rfl⟩ := h
    simp [operand8_quiet hb]
  | zeroPageX =>
    simp only [hm, Option.map_eq_some_iff] at h
    obtain ⟨b, hb, rfl⟩ := h
    simp [operand8_quiet hb]
  | zeroPageY =>
    simp only [hm, Option.map_eq_some_iff] at h
    obtain ⟨b, hb, rfl⟩ := h
    simp [operand8_quiet hb]
  | absolute =>
    simp only [hm] at h
    simp [operand16_quiet h]
  | absoluteX =>
    simp only [hm, Option.map_eq_some_iff] at h
    obtain ⟨w, hw, rfl⟩ := h
    simp [operand16_quiet hw, indexed]
  | absoluteY =>
    simp only [hm, Option.map_eq_some_iff] at h
    obtain ⟨w, hw, rfl⟩ := h
    simp [operand16_quiet hw, indexed]
  | indirect =>
    simp only [hm, Option.bind_eq_some_iff] at h
    obtain ⟨w, hw, hr⟩ := h
    simp [operand16_quiet hw, busLoad16_quiet hr]
  | indirectX =>
    simp only [hm, Option.bind_eq_some_iff] at h
    obtain ⟨b, hb, hr⟩ := h
    simp [operand8_quiet hb, busLoad16_quiet hr]
  | indirectY =>
    simp only [hm, Option.map_eq_some_iff, Option.bind_eq_some_iff] at h
    obtain ⟨w, ⟨b, hb, hw⟩, rfl⟩ := h
    simp [operand8_quiet hb, busLoad16_quiet hw, indexed]
  | relative =>
    simp only [hm, Option.map_eq_some_iff] at h
    obtain ⟨b, hb, rfl⟩ := h
    simp [operand8_quiet hb]
  | implied => simp [hm] at h
  | illegal => simp [hm] at h
  | unknown => simp [hm] at h

@[simp] theorem quietByte?_addCycles (s : State) (n : Nat) (a : Word) :
    (s.addCycles n).quietByte? a = s.quietByte? a := rfl

@[simp] theorem quietByte?_advance (s : State) (d : Descriptor) (a : Word) :
    (s.advance d).quietByte? a = s.quietByte? a := rfl

@[simp] theorem quietStore?_addCycles_isSome (s : State) (n : Nat) (a : Word) (v : Byte) :
    ((s.addCycles n).quietStore? a v).isSome = (s.quietStore? a v).isSome := by
  unfold State.quietStore?
  rw [State.addCycles_route, State.addCycles_ppu, State.addCycles_io]
  cases s.route a with
  | error e => rfl
  | ok p =>
    obtain ⟨d, o⟩ := p
    cases d with
    | ram => rfl
    | rom => rfl
    | mapper => rfl
    | ppu => cases s.ppu <;> simp
    | io => cases s.io <;> simp

/-- ReadOperand answers the data operand of 40_engine.md R74. -/
theorem readOperand_quiet {s : State} {d : Descriptor} {r : Word} {v : Byte} (hr : s.effective? d = some r)
    (hv : s.quietOperand? d r = some v) : readOperand d s = .ok v (s.addCycles (s.penaltyFor d r)) := by
  unfold State.quietOperand? at hv
  unfold readOperand
  rw [M.bind_of_ok (resolve_quiet hr)]
  by_cases hm : modeIsValue d.mode
  · simp only [hm, if_true, Option.some.injEq] at hv
    simp [hm, hv]
  · simp only [hm] at hv
    rw [if_neg hm]
    exact busLoad_quiet (by simpa using hv)

/-- The handler of an instruction of the table runs on the resolved operand. -/
theorem readOperand_advance {s : State} {d : Descriptor} {r : Word} {v : Byte}
    (hr : (s.advance d).effective? d = some r) (hv : (s.advance d).quietOperand? d r = some v) :
    readOperand d (s.advance d) = .ok v (s.resolved d r) := readOperand_quiet hr hv

theorem storeOperand_advance {s t : State} {d : Descriptor} {r : Word} {v : Byte}
    (hr : (s.advance d).effective? d = some r) (hs : (s.resolved d r).quietStore? r v = some t) :
    storeOperand d v (s.advance d) = .ok () t := by
  unfold storeOperand
  rw [M.bind_of_ok (resolve_quiet hr)]
  exact busStore_quiet hs

/-! The stack. -/

theorem stackAddr_toNat (sp : Byte) : (stackAddr sp).toNat = 0x0100 + sp.toNat := by
  have h : sp.toNat < 0x100 := sp.isLt
  simp [stackAddr, Config.stackBase, zext16, BitVec.toNat_add]
  omega

/-- The stack page is in RAM (10_state.md R17). -/
theorem route_stackAddr (s : State) (sp : Byte) : s.route (stackAddr sp) = .ok (.ram, 0x0100 + sp.toNat) := by
  have h : sp.toNat < 0x100 := sp.isLt
  have e := stackAddr_toNat sp
  have h1 : (stackAddr sp).toNat ≤ 0x1FFF := by omega
  unfold State.route route
  rw [if_pos h1, e]
  congr 2
  omega

theorem busStore_stack (s : State) (sp v : Byte) :
    busStore (stackAddr sp) v s = .ok () (s.setRam (s.ram.write (0x0100 + sp.toNat) v)) := by
  apply busStore_quiet
  simp [State.quietStore?, route_stackAddr]

theorem busLoad_stack (s : State) (sp : Byte) :
    busLoad (stackAddr sp) s = .ok (s.ram.read (0x0100 + sp.toNat)) s := by
  apply busLoad_quiet
  simp [State.quietByte?, route_stackAddr]

/-- All that a push does (20_memory.md R40). -/
theorem push_eq (v : Byte) (s : State) :
    push v s = if s.sp = 0x00 then .error (.memory (.stackOverflow s.sp)) s else .ok () (s.pushed v) := by
  unfold push
  by_cases h : s.sp = 0x00
  · simp [h]
  · simp only [M.bind_apply, readState_apply, h, if_false, busStore_stack, update_apply]
    rfl

/-- All that a pop does (20_memory.md R41). -/
theorem pop_eq (s : State) :
    pop s = if s.sp = 0xFF then .error (.memory (.stackUnderflow s.sp)) s else .ok s.top (s.setSp (s.sp + 1)) := by
  unfold pop
  by_cases h : s.sp = 0xFF
  · simp [h]
  · simp only [M.bind_apply, readState_apply, h, if_false, update_apply, busLoad_stack]
    rfl

end Sys2Proof.Machine
end

