-- ==== Sys2Proof/Laws/Step.lean ====
section
/-! SUPPORT. What a step can do, said once: each instruction is made of loads and of the elementary changes that the
tables of Safety.lean allow it. A relation that holds of those changes holds of the instruction. -/

namespace Sys2Proof.Machine

variable {R : State → State → Prop} {i : Instr}

/-- A frame that allows the elementary changes of one instruction after its advance: a device's own at a load, and
where the tables allow them a store, a register, a flag, the flags pulled from the stack. -/
structure InstrFrame (i : Instr) (R : State → State → Prop) : Prop extends LoadFrame R where
  store : (i.storesOperand || decide (0 < i.pushes)) = true → ∀ d o v s, R s (deviceStore d o v s).2
  pc : i.transfersControl = true → ∀ v s, R s (s.setPc v)
  sp : i.writesSp = true → ∀ v s, R s (s.setSp v)
  a : i.writesA = true → ∀ v s, R s (s.setA v)
  x : i.writesX = true → ∀ v s, R s (s.setX v)
  y : i.writesY = true → ∀ v s, R s (s.setY v)
  flag : ∀ f b, i.writesFlag f = true → ∀ s, R s (s.setFlag f b)
  pulled : i.pullsStatus = true → ∀ v s, R s (s.setP (pulledStatus s.p v))

theorem InstrFrame.toStoreFrame (h : InstrFrame i R)
    (hs : (i.storesOperand || decide (0 < i.pushes)) = true) : StoreFrame R :=
  { h.toLoadFrame with store := h.store hs }

theorem InstrFrame.zn (h : InstrFrame i R) (hz : i.writesZN = true) (r : Byte) (s : State) : R s (s.setZN r) :=
  h.trans (h.flag .zero (r == 0) hz s) (h.flag .negative (getBit r 7) hz _)

theorem InstrFrame.addCarry (h : InstrFrame i R) (hc : i.writesCarry = true) (hv : i.writesOverflow = true)
    (ha : i.writesA = true) (hz : i.writesZN = true) (m : Byte) (s : State) : R s (s.addCarry m) :=
  h.trans (h.flag .carry _ hc s) <| h.trans (h.flag .overflow _ hv _) <| h.trans (h.a ha _ _) (h.zn hz _ _)

theorem InstrFrame.compare (h : InstrFrame i R) (hc : i.writesCarry = true) (hz : i.writesZN = true)
    (reg m : Byte) (s : State) : R s (s.compare reg m) :=
  h.trans (h.flag .carry _ hc s) <| h.trans (h.flag .zero _ hz _) (h.flag .negative _ hz _)

theorem InstrFrame.bitTest (h : InstrFrame i R) (hz : i.writesZN = true) (hv : i.writesOverflow = true)
    (m : Byte) (s : State) : R s (s.bitTest m) :=
  h.trans (h.flag .zero _ hz s) <| h.trans (h.flag .overflow _ hv _) (h.flag .negative _ hz _)

theorem InstrFrame.shift (h : InstrFrame i R) (hc : i.writesCarry = true) (hz : i.writesZN = true) (c : Bool)
    (r : Byte) (s : State) : R s ((s.setFlag .carry c).setZN r) :=
  h.trans (h.flag .carry _ hc s) (h.zn hz _ _)

/-- A read of the operand, then a change made of it: the shape of the loads, the ALU operations and the compares. -/
theorem Keeps.readThen (h : LoadFrame R) {f : Byte → State → State} (hf : ∀ v s, R s (f v s)) (d : Descriptor) :
    Keeps R (Machine.readOperand d >>= fun m => Machine.update fun s => f m s) :=
  .bind h.toFrame (.readOperand h d) fun v => .update fun s => hf v s

/-- Modify in a memory mode writes no register. -/
theorem Keeps.modifyMemory (h : StoreFrame R) {d : Descriptor} (hm : d.mode ≠ .accumulator)
    {f : Byte → State → Byte × State} (hf : ∀ v s, R s (f v s).2) : Keeps R (Machine.modifyOperand d f) :=
  .modifyOperand h d hf fun e => absurd e hm

/-- Modify in Accumulator mode makes no access (40_engine.md R76). -/
theorem Keeps.modifyAccumulator (h : Frame R) {d : Descriptor} (hm : d.mode = .accumulator)
    {f : Byte → State → Byte × State} (hf : ∀ v s, R s (f v s).2) (ha : ∀ v s, R s (s.setA v)) :
    Keeps R (Machine.modifyOperand d f) := by
  unfold Machine.modifyOperand
  rw [if_pos hm]
  exact .bind h (.readState h) fun _ => .bind h (.applyByte hf _) fun _ => .update fun s => ha _ s

/-- A mode an instruction of the table does not have is not its descriptor's. -/
theorem modeOf {d : Descriptor} (hd : i.descriptor = some d) (h : i.wf = true → i.mode ≠ .accumulator) :
    d.mode ≠ .accumulator := by
  rw [descriptor_mode hd]
  exact h (descriptor_facts hd).1

/-- A shift, in Accumulator mode or in a memory mode. -/
theorem Keeps.shiftOperand (h : InstrFrame i R) {d : Descriptor} (hd : i.descriptor = some d)
    (ha : i.mode = .accumulator → i.writesA = true) (hs : i.mode ≠ .accumulator → i.storesOperand = true)
    {f : Byte → State → Byte × State} (hf : ∀ v s, R s (f v s).2) : Keeps R (Machine.modifyOperand d f) := by
  by_cases hm : i.mode = .accumulator
  · exact .modifyAccumulator h.toFrame (descriptor_mode hd ▸ hm) hf (h.a (ha hm))
  · exact .modifyMemory (h.toStoreFrame (by rw [hs hm]; rfl)) (descriptor_mode hd ▸ hm) hf

theorem Keeps.branchOp (h : LoadFrame R) (hpc : ∀ v s, R s (s.setPc v)) (f : Flag) (b : Bool) (d : Descriptor) :
    Keeps R (Machine.branchOp f b d) :=
  .bind h.toFrame (.readState h.toFrame) fun _ => .ite
    (.bind h.toFrame (.update fun s => h.cycles _ s) fun _ => .bind h.toFrame (.resolve h d) fun _ =>
      .update fun s => hpc _ s)
    (.pure h.toFrame _)

theorem Keeps.nopUOp (h : LoadFrame R) (d : Descriptor) : Keeps R (Machine.nopUOp d) := by
  unfold Machine.nopUOp
  split
  · exact .pure h.toFrame _
  · exact .bind h.toFrame (.resolve h d) fun _ => .pure h.toFrame _
  · exact .bind h.toFrame (.resolve h d) fun _ => .bind h.toFrame (.busLoad h _) fun _ => .pure h.toFrame _

/-- An instruction, from its advanced state on, keeps what its handler keeps. -/
theorem runInstr_keeps_from {handler : Descriptor → M Unit}
    (hh : ∀ d, i.descriptor = some d → Keeps R (handler d)) {s t : State} (e : runInstr i handler s = .next t) :
    ∃ d, i.descriptor = some d ∧ R (s.advance d) t := by
  obtain ⟨d, hd, ht⟩ := runInstr_next e
  exact ⟨d, hd, (hh d hd).of_ok ht⟩

/-- Every instruction, from its advanced state on, keeps a frame that allows its own elementary changes. -/
theorem exec_keeps_from {s t : State} (h : InstrFrame i R) (e : exec i s = .next t) :
    ∃ d, i.descriptor = some d ∧ R (s.advance d) t := by
  cases i with
  | lda m => exact runInstr_keeps_from (handler := ldaOp) (fun d hd => .readThen h.toLoadFrame (fun v s => h.trans (h.a rfl v s) (h.zn rfl v _)) d) (exec_lda m s ▸ e)
  | ldx m => exact runInstr_keeps_from (handler := ldxOp) (fun d hd => .readThen h.toLoadFrame (fun v s => h.trans (h.x rfl v s) (h.zn rfl v _)) d) (exec_ldx m s ▸ e)
  | ldy m => exact runInstr_keeps_from (handler := ldyOp) (fun d hd => .readThen h.toLoadFrame (fun v s => h.trans (h.y rfl v s) (h.zn rfl v _)) d) (exec_ldy m s ▸ e)
  | sta m => exact runInstr_keeps_from (handler := staOp) (fun d hd => .bind h.toFrame (.readState h.toFrame) fun _ => .storeOperand (h.toStoreFrame rfl) d _) (exec_sta m s ▸ e)
  | stx m => exact runInstr_keeps_from (handler := stxOp) (fun d hd => .bind h.toFrame (.readState h.toFrame) fun _ => .storeOperand (h.toStoreFrame rfl) d _) (exec_stx m s ▸ e)
  | sty m => exact runInstr_keeps_from (handler := styOp) (fun d hd => .bind h.toFrame (.readState h.toFrame) fun _ => .storeOperand (h.toStoreFrame rfl) d _) (exec_sty m s ▸ e)
  | tax => exact runInstr_keeps_from (handler := taxOp) (fun d hd => .update fun s => h.trans (h.x rfl _ s) (h.zn rfl _ _)) (exec_tax s ▸ e)
  | tay => exact runInstr_keeps_from (handler := tayOp) (fun d hd => .update fun s => h.trans (h.y rfl _ s) (h.zn rfl _ _)) (exec_tay s ▸ e)
  | txa => exact runInstr_keeps_from (handler := txaOp) (fun d hd => .update fun s => h.trans (h.a rfl _ s) (h.zn rfl _ _)) (exec_txa s ▸ e)
  | tya => exact runInstr_keeps_from (handler := tyaOp) (fun d hd => .update fun s => h.trans (h.a rfl _ s) (h.zn rfl _ _)) (exec_tya s ▸ e)
  | tsx => exact runInstr_keeps_from (handler := tsxOp) (fun d hd => .update fun s => h.trans (h.x rfl _ s) (h.zn rfl _ _)) (exec_tsx s ▸ e)
  | txs => exact runInstr_keeps_from (handler := txsOp) (fun d hd => .update fun s => h.sp rfl _ s) (exec_txs s ▸ e)
  | adc m => exact runInstr_keeps_from (handler := adcOp) (fun d hd => .readThen h.toLoadFrame (fun v s => h.addCarry rfl rfl rfl rfl v s) d) (exec_adc m s ▸ e)
  | sbc m => exact runInstr_keeps_from (handler := sbcOp) (fun d hd => .readThen h.toLoadFrame (fun v s => h.addCarry rfl rfl rfl rfl _ s) d) (exec_sbc m s ▸ e)
  | and m => exact runInstr_keeps_from (handler := andOp) (fun d hd => .readThen h.toLoadFrame (fun v s => h.trans (h.a rfl _ s) (h.zn rfl _ _)) d) (exec_and m s ▸ e)
  | ora m => exact runInstr_keeps_from (handler := oraOp) (fun d hd => .readThen h.toLoadFrame (fun v s => h.trans (h.a rfl _ s) (h.zn rfl _ _)) d) (exec_ora m s ▸ e)
  | eor m => exact runInstr_keeps_from (handler := eorOp) (fun d hd => .readThen h.toLoadFrame (fun v s => h.trans (h.a rfl _ s) (h.zn rfl _ _)) d) (exec_eor m s ▸ e)
  | bit m => exact runInstr_keeps_from (handler := bitOp) (fun d hd => .readThen h.toLoadFrame (fun v s => h.bitTest rfl rfl v s) d) (exec_bit m s ▸ e)
  | cmp m => exact runInstr_keeps_from (handler := cmpOp) (fun d hd => .readThen h.toLoadFrame (fun v s => h.compare rfl rfl _ v s) d) (exec_cmp m s ▸ e)
  | cpx m => exact runInstr_keeps_from (handler := cpxOp) (fun d hd => .readThen h.toLoadFrame (fun v s => h.compare rfl rfl _ v s) d) (exec_cpx m s ▸ e)
  | cpy m => exact runInstr_keeps_from (handler := cpyOp) (fun d hd => .readThen h.toLoadFrame (fun v s => h.compare rfl rfl _ v s) d) (exec_cpy m s ▸ e)
  | inc m => exact runInstr_keeps_from (handler := incOp) (fun d hd => .modifyMemory (h.toStoreFrame rfl) (modeOf hd (by cases m <;> decide)) (fun _ s => h.zn rfl _ s)) (exec_inc m s ▸ e)
  | dec m => exact runInstr_keeps_from (handler := decOp) (fun d hd => .modifyMemory (h.toStoreFrame rfl) (modeOf hd (by cases m <;> decide)) (fun _ s => h.zn rfl _ s)) (exec_dec m s ▸ e)
  | inx => exact runInstr_keeps_from (handler := inxOp) (fun d hd => .update fun s => h.trans (h.x rfl _ s) (h.zn rfl _ _)) (exec_inx s ▸ e)
  | iny => exact runInstr_keeps_from (handler := inyOp) (fun d hd => .update fun s => h.trans (h.y rfl _ s) (h.zn rfl _ _)) (exec_iny s ▸ e)
  | dex => exact runInstr_keeps_from (handler := dexOp) (fun d hd => .update fun s => h.trans (h.x rfl _ s) (h.zn rfl _ _)) (exec_dex s ▸ e)
  | dey => exact runInstr_keeps_from (handler := deyOp) (fun d hd => .update fun s => h.trans (h.y rfl _ s) (h.zn rfl _ _)) (exec_dey s ▸ e)
  | asl m => exact runInstr_keeps_from (handler := aslOp) (fun d hd => .shiftOperand h hd (fun e => by simpa [Instr.writesA, Instr.mode] using e) (fun e => by simpa [Instr.storesOperand, Instr.mode] using e) (fun _ s => h.shift rfl rfl _ _ s)) (exec_asl m s ▸ e)
  | lsr m => exact runInstr_keeps_from (handler := lsrOp) (fun d hd => .shiftOperand h hd (fun e => by simpa [Instr.writesA, Instr.mode] using e) (fun e => by simpa [Instr.storesOperand, Instr.mode] using e) (fun _ s => h.shift rfl rfl _ _ s)) (exec_lsr m s ▸ e)
  | rol m => exact runInstr_keeps_from (handler := rolOp) (fun d hd => .shiftOperand h hd (fun e => by simpa [Instr.writesA, Instr.mode] using e) (fun e => by simpa [Instr.storesOperand, Instr.mode] using e) (fun _ s => h.shift rfl rfl _ _ s)) (exec_rol m s ▸ e)
  | ror m => exact runInstr_keeps_from (handler := rorOp) (fun d hd => .shiftOperand h hd (fun e => by simpa [Instr.writesA, Instr.mode] using e) (fun e => by simpa [Instr.storesOperand, Instr.mode] using e) (fun _ s => h.shift rfl rfl _ _ s)) (exec_ror m s ▸ e)
  | jmp m => exact runInstr_keeps_from (handler := jmpOp) (fun d hd => .bind h.toFrame (.resolve h.toLoadFrame d) fun _ => .update fun s => h.pc rfl _ s) (exec_jmp m s ▸ e)
  | jsr => exact runInstr_keeps_from (handler := jsrOp) (fun d hd => .bind h.toFrame (.resolve h.toLoadFrame d) fun _ => .bind h.toFrame (.readState h.toFrame) fun _ =>
      .bind h.toFrame (.pushWord (h.toStoreFrame rfl) (h.sp rfl) _) fun _ => .update fun s => h.pc rfl _ s) (exec_jsr s ▸ e)
  | rts => exact runInstr_keeps_from (handler := rtsOp) (fun d hd => .bind h.toFrame (.popWord h.toLoadFrame (h.sp rfl)) fun _ => .update fun s => h.pc rfl _ s) (exec_rts s ▸ e)
  | bcc => exact runInstr_keeps_from (handler := branchOp .carry false) (fun d hd => .branchOp h.toLoadFrame (h.pc rfl) _ _ d) (exec_bcc s ▸ e)
  | bcs => exact runInstr_keeps_from (handler := branchOp .carry true) (fun d hd => .branchOp h.toLoadFrame (h.pc rfl) _ _ d) (exec_bcs s ▸ e)
  | beq => exact runInstr_keeps_from (handler := branchOp .zero true) (fun d hd => .branchOp h.toLoadFrame (h.pc rfl) _ _ d) (exec_beq s ▸ e)
  | bne => exact runInstr_keeps_from (handler := branchOp .zero false) (fun d hd => .branchOp h.toLoadFrame (h.pc rfl) _ _ d) (exec_bne s ▸ e)
  | bmi => exact runInstr_keeps_from (handler := branchOp .negative true) (fun d hd => .branchOp h.toLoadFrame (h.pc rfl) _ _ d) (exec_bmi s ▸ e)
  | bpl => exact runInstr_keeps_from (handler := branchOp .negative false) (fun d hd => .branchOp h.toLoadFrame (h.pc rfl) _ _ d) (exec_bpl s ▸ e)
  | bvc => exact runInstr_keeps_from (handler := branchOp .overflow false) (fun d hd => .branchOp h.toLoadFrame (h.pc rfl) _ _ d) (exec_bvc s ▸ e)
  | bvs => exact runInstr_keeps_from (handler := branchOp .overflow true) (fun d hd => .branchOp h.toLoadFrame (h.pc rfl) _ _ d) (exec_bvs s ▸ e)
  | pha => exact runInstr_keeps_from (handler := phaOp) (fun d hd => .bind h.toFrame (.readState h.toFrame) fun _ => .push (h.toStoreFrame rfl) (h.sp rfl) _) (exec_pha s ▸ e)
  | php => exact runInstr_keeps_from (handler := phpOp) (fun d hd => .bind h.toFrame (.readState h.toFrame) fun _ => .push (h.toStoreFrame rfl) (h.sp rfl) _) (exec_php s ▸ e)
  | pla => exact runInstr_keeps_from (handler := plaOp) (fun d hd => .bind h.toFrame (.pop h.toLoadFrame (h.sp rfl)) fun v => .update fun s => h.trans (h.a rfl v s) (h.zn rfl v _)) (exec_pla s ▸ e)
  | plp => exact runInstr_keeps_from (handler := plpOp) (fun d hd => .popStatus h.toLoadFrame (h.sp rfl) (h.pulled rfl)) (exec_plp s ▸ e)
  | clc => exact runInstr_keeps_from (handler := flagOp .carry false) (fun d hd => .update fun s => h.flag _ _ rfl s) (exec_clc s ▸ e)
  | sec => exact runInstr_keeps_from (handler := flagOp .carry true) (fun d hd => .update fun s => h.flag _ _ rfl s) (exec_sec s ▸ e)
  | cli => exact runInstr_keeps_from (handler := flagOp .interruptDisable false) (fun d hd => .update fun s => h.flag _ _ rfl s) (exec_cli s ▸ e)
  | sei => exact runInstr_keeps_from (handler := flagOp .interruptDisable true) (fun d hd => .update fun s => h.flag _ _ rfl s) (exec_sei s ▸ e)
  | cld => exact runInstr_keeps_from (handler := flagOp .decimal false) (fun d hd => .update fun s => h.flag _ _ rfl s) (exec_cld s ▸ e)
  | sed => exact runInstr_keeps_from (handler := flagOp .decimal true) (fun d hd => .update fun s => h.flag _ _ rfl s) (exec_sed s ▸ e)
  | clv => exact runInstr_keeps_from (handler := flagOp .overflow false) (fun d hd => .update fun s => h.flag _ _ rfl s) (exec_clv s ▸ e)
  | nop => exact runInstr_keeps_from (handler := nopOp) (fun d hd => .pure h.toFrame _) (exec_nop s ▸ e)
  | brk => exact runInstr_keeps_from (handler := brkOp) (fun d hd => .bind h.toFrame (.readState h.toFrame) fun _ =>
      .intSeq (h.toStoreFrame rfl) (h.sp rfl) (h.pc rfl) (fun s => h.flag _ _ rfl s) _ _ _) (exec_brk s ▸ e)
  | rti => exact runInstr_keeps_from (handler := rtiOp) (fun d hd => .returnSeq h.toLoadFrame (h.sp rfl) (h.pc rfl) (h.pulled rfl)) (exec_rti s ▸ e)
  | nopU op => exact runInstr_keeps_from (handler := nopUOp) (fun d hd => .nopUOp h.toLoadFrame d) (exec_nopU op s ▸ e)
  | laxU m => exact runInstr_keeps_from (handler := composite ldaOp taxOp) (fun d hd => .bind h.toFrame (.readThen h.toLoadFrame (fun v s => h.trans (h.a rfl v s) (h.zn rfl v _)) d) fun _ => .update fun s => h.trans (h.x rfl _ s) (h.zn rfl _ _)) (exec_laxU m s ▸ e)
  | saxU m => exact runInstr_keeps_from (handler := saxUOp) (fun d hd => .bind h.toFrame (.readState h.toFrame) fun _ => .storeOperand (h.toStoreFrame rfl) d _) (exec_saxU m s ▸ e)
  | sbcU => exact runInstr_keeps_from (handler := sbcOp) (fun d hd => .readThen h.toLoadFrame (fun v s => h.addCarry rfl rfl rfl rfl _ s) d) (exec_sbcU s ▸ e)
  | dcpU m => exact runInstr_keeps_from (handler := composite decOp cmpOp) (fun d hd => .bind h.toFrame (.modifyMemory (h.toStoreFrame rfl) (modeOf hd (by cases m <;> decide)) (fun _ s => h.zn rfl _ s)) fun _ =>
      .readThen h.toLoadFrame (fun v s => h.compare rfl rfl _ v s) d) (exec_dcpU m s ▸ e)
  | iscU m => exact runInstr_keeps_from (handler := composite incOp sbcOp) (fun d hd => .bind h.toFrame (.modifyMemory (h.toStoreFrame rfl) (modeOf hd (by cases m <;> decide)) (fun _ s => h.zn rfl _ s)) fun _ =>
      .readThen h.toLoadFrame (fun v s => h.addCarry rfl rfl rfl rfl _ s) d) (exec_iscU m s ▸ e)
  | sloU m => exact runInstr_keeps_from (handler := composite aslOp oraOp) (fun d hd => .bind h.toFrame (.modifyMemory (h.toStoreFrame rfl) (modeOf hd (by cases m <;> decide)) (fun _ s => h.shift rfl rfl _ _ s)) fun _ =>
      .readThen h.toLoadFrame (fun v s => h.trans (h.a rfl _ s) (h.zn rfl _ _)) d) (exec_sloU m s ▸ e)
  | rlaU m => exact runInstr_keeps_from (handler := composite rolOp andOp) (fun d hd => .bind h.toFrame (.modifyMemory (h.toStoreFrame rfl) (modeOf hd (by cases m <;> decide)) (fun _ s => h.shift rfl rfl _ _ s)) fun _ =>
      .readThen h.toLoadFrame (fun v s => h.trans (h.a rfl _ s) (h.zn rfl _ _)) d) (exec_rlaU m s ▸ e)
  | sreU m => exact runInstr_keeps_from (handler := composite lsrOp eorOp) (fun d hd => .bind h.toFrame (.modifyMemory (h.toStoreFrame rfl) (modeOf hd (by cases m <;> decide)) (fun _ s => h.shift rfl rfl _ _ s)) fun _ =>
      .readThen h.toLoadFrame (fun v s => h.trans (h.a rfl _ s) (h.zn rfl _ _)) d) (exec_sreU m s ▸ e)
  | rraU m => exact runInstr_keeps_from (handler := composite rorOp adcOp) (fun d hd => .bind h.toFrame (.modifyMemory (h.toStoreFrame rfl) (modeOf hd (by cases m <;> decide)) (fun _ s => h.shift rfl rfl _ _ s)) fun _ =>
      .readThen h.toLoadFrame (fun v s => h.addCarry rfl rfl rfl rfl v s) d) (exec_rraU m s ▸ e)
  | illegal op => exact runInstr_keeps_from (handler := illegalOp) (fun d hd => .raise h.toFrame _) (exec_illegal op s ▸ e)

/-- A frame that allows every elementary change an instruction is made of: a device's own, a store, a register, a flag
other than Break and unused, the flags pulled from the stack. -/
structure StepFrame (R : State → State → Prop) : Prop extends StoreFrame R where
  pc : ∀ v s, R s (s.setPc v)
  sp : ∀ v s, R s (s.setSp v)
  a : ∀ v s, R s (s.setA v)
  x : ∀ v s, R s (s.setX v)
  y : ∀ v s, R s (s.setY v)
  flag : ∀ f b, f ≠ .break → f ≠ .unused → ∀ s, R s (s.setFlag f b)
  pulled : ∀ v s, R s (s.setP (pulledStatus s.p v))

theorem StepFrame.toInstrFrame (h : StepFrame R) (i : Instr) : InstrFrame i R :=
  { h.toLoadFrame with
    store := fun _ => h.store
    pc := fun _ => h.pc
    sp := fun _ => h.sp
    a := fun _ => h.a
    x := fun _ => h.x
    y := fun _ => h.y
    flag := fun f b hf => h.flag f b (by rintro rfl; cases hf) (by rintro rfl; cases hf)
    pulled := fun _ => h.pulled }

theorem StepFrame.advance (h : StepFrame R) (d : Descriptor) (s : State) : R s (s.advance d) :=
  h.trans (h.pc _ s) (h.cycles _ _)

/-- Every instruction keeps a frame that allows the elementary changes. -/
theorem exec_keeps (h : StepFrame R) {s t : State} (e : exec i s = .next t) : R s t := by
  obtain ⟨d, -, hr⟩ := exec_keeps_from (h.toInstrFrame i) e
  exact h.trans (h.advance d s) hr

/-- The fetch makes one load (40_engine.md R68). -/
theorem Keeps.fetch (h : LoadFrame R) : Keeps R Machine.fetch :=
  .bind h.toFrame (.readState h.toFrame) fun _ => .bind h.toFrame (.busLoad h _) fun _ => .pure h.toFrame _

/-- A step that answers fetched an instruction and ran it. -/
theorem step_next {s u : State} (e : step s = .next u) : ∃ i t, fetch s = .ok i t ∧ exec i t = .next u := by
  unfold step at e
  cases hf : fetch s with
  | ok i t => exact ⟨i, t, rfl, by simpa [hf] using e⟩
  | error c t => simp [hf] at e

/-- Every step keeps a frame that allows the elementary changes. -/
theorem step_keeps (h : StepFrame R) {s u : State} (e : step s = .next u) : R s u := by
  obtain ⟨i, t, hf, hx⟩ := step_next e
  exact h.trans ((Keeps.fetch h.toLoadFrame).of_ok hf) (exec_keeps h hx)

/-- The instruction a fetch gives is decoded from the byte loaded at PC. -/
theorem fetch_ok {s t : State} {i : Instr} (h : fetch s = .ok i t) :
    ∃ op, busLoad s.pc s = .ok op t ∧ i = decode op := by
  unfold fetch at h
  obtain ⟨u, t1, h1, h2⟩ := M.bind_ok_inv h
  cases h1
  obtain ⟨op, t2, h3, h4⟩ := M.bind_ok_inv h2
  cases h4
  exact ⟨op, h3, rfl⟩

/-- A fetch with no side effect. -/
theorem fetch_quiet {s : State} {op : Byte} (h : s.quietByte? s.pc = some op) : fetch s = .ok (decode op) s := by
  simp [fetch, busLoad_quiet h]

end Sys2Proof.Machine
end

