-- ==== Sys2Proof/Laws/Families.lean ====
section
/-! SUPPORT. How an instruction's handler gives the statement shapes of Safety.lean: one lemma for each shape, cited with
the handler's own equation (`rfl` for most). -/

namespace Sys2Proof.Machine

/-- Every mode, for a check over the modes of a mnemonic. -/
def allModes : List Mode :=
  [.implied, .accumulator, .immediate, .absolute, .absoluteX, .absoluteY, .indirect, .indirectX, .indirectY, .zeroPage,
   .zeroPageX, .zeroPageY, .relative, .illegal, .unknown]

theorem mem_allModes (m : Mode) : m ∈ allModes := by cases m <;> decide

/-- The rows of an Encoding line, checked against the table. -/
def rowsCheck (mnemonic : String) (i : Mode → Instr) (rows : List EncodingRow) : Bool :=
  rows.all fun r =>
    lookup r.1 == ⟨r.1, mnemonic, r.2.2.1, r.2.2.2.1, r.2.2.2.2, r.2.1⟩ && decode r.1 == i r.2.1

/-- The modes of a mnemonic, checked against the rows of its Encoding line. -/
def modesCheck (i : Mode → Instr) (rows : List EncodingRow) : Bool :=
  allModes.all fun m => !(i m).wf || rows.any fun r => r.2.1 == m

/-- An Encoding line holds where both checks do. -/
theorem EncodedAs.of_check {mnemonic : String} {i : Mode → Instr} {rows : List EncodingRow}
    (hr : rowsCheck mnemonic i rows = true) (hm : modesCheck i rows = true) : EncodedAs mnemonic i rows := by
  refine ⟨fun op mode length cycles cross h => ?_, fun m h => ?_⟩
  · simpa using List.all_eq_true.mp hr _ h
  · simpa [h] using List.all_eq_true.mp hm m (mem_allModes m)

/-- A mnemonic none of whose modes is flagged `can_cross_page` has no page-cross penalty. -/
theorem unflagged_of_check {i : Mode → Instr}
    (h : allModes.all (fun m => (i m).descriptor.all fun d => !d.canCrossPage) = true) (m : Mode) :
    ∀ d, (i m).descriptor = some d → d.canCrossPage = false := by
  intro d hd
  simpa [hd] using List.all_eq_true.mp h m (mem_allModes m)

/-- A mnemonic all of whose modes are memory modes. -/
theorem memoryMode_of_check {i : Mode → Instr}
    (h : allModes.all (fun m => (i m).descriptor.all fun d => !modeIsValue d.mode) = true) (m : Mode) :
    ∀ d, (i m).descriptor = some d → modeIsValue d.mode = false := by
  intro d hd
  simpa [hd] using List.all_eq_true.mp h m (mem_allModes m)

/-- An unflagged descriptor adds no penalty (40_engine.md R71). -/
theorem penaltyFor_unflagged {d : Descriptor} (h : d.canCrossPage = false) (s : State) (r : Word) :
    s.penaltyFor d r = 0 := by
  simp [State.penaltyFor, penaltyCycles, h]

/-- An unflagged descriptor resolves without any change. -/
theorem resolve_unflagged {s : State} {d : Descriptor} {r : Word} (hc : d.canCrossPage = false)
    (h : s.effective? d = some r) : resolve d s = .ok r s := by
  rw [resolve_quiet h, penaltyFor_unflagged hc, addCycles_zero]

/-- ReadOperand for a resolved value: the value itself, or the byte loaded (40_engine.md R74). -/
theorem readOperand_of_resolve {s t : State} {d : Descriptor} {r : Word} (h : resolve d s = .ok r t) :
    readOperand d s = if modeIsValue d.mode then .ok (lo r) t else busLoad r t := by
  rw [readOperand, M.bind_of_ok h]
  split <;> rfl

theorem readOperand_of_error {s t : State} {d : Descriptor} {c : Cause} (h : resolve d s = .error c t) :
    readOperand d s = .error c t := by
  rw [readOperand, M.bind_of_error h]

/-- Modify in a memory mode for a resolved address: the load, the flags, the store (40_engine.md R76). -/
theorem modifyOperand_of_resolve {s t : State} {d : Descriptor} {f : Byte → State → Byte × State} {r : Word}
    (hm : d.mode ≠ .accumulator) (h : resolve d s = .ok r t) :
    modifyOperand d f s = match busLoad r t with
      | .ok v u => busStore r (f v u).1 (f v u).2
      | .error c u => .error c u := by
  rw [modifyOperand, if_neg hm, M.bind_of_ok h]
  cases hl : busLoad r t with
  | ok v u => rw [M.bind_of_ok hl, M.bind_of_ok (applyByte_apply _ _ _)]
  | error c u => rw [M.bind_of_error hl]

theorem modifyOperand_of_error {s t : State} {d : Descriptor} {f : Byte → State → Byte × State} {c : Cause}
    (hm : d.mode ≠ .accumulator) (h : resolve d s = .error c t) : modifyOperand d f s = .error c t := by
  rw [modifyOperand, if_neg hm, M.bind_of_error h]

/-- A handler that reads its operand and then changes the state by it. -/
theorem ReadsThen.of_handler {i : Instr} {handler : Descriptor → M Unit} {f : Byte → State → State}
    (hx : ∀ s, exec i s = runInstr i handler s)
    (hh : ∀ d, handler d = readOperand d >>= fun m => update fun s => f m s) : ReadsThen i f := by
  intro d s hd
  have e : exec i s = outcome ((readOperand d >>= fun m => update fun s => f m s) (s.advance d)) := by
    rw [hx, runInstr_of_descriptor hd, hh]
  refine ⟨fun r m hr hm => ?_, fun c t h => ?_, fun r t h => ⟨fun hv => ?_, fun hv => ⟨fun m u hl => ?_, fun c u hl => ?_⟩⟩⟩
  · rw [e, M.bind_of_ok (readOperand_advance hr hm)]; rfl
  · rw [e, M.bind_of_error (readOperand_of_error h)]; rfl
  · rw [e, M.bind_of_ok (by rw [readOperand_of_resolve h, if_pos hv])]; rfl
  · rw [e, M.bind_of_ok (by rw [readOperand_of_resolve h, hv]; exact hl)]; rfl
  · rw [e, M.bind_of_error (by rw [readOperand_of_resolve h, hv]; exact hl)]; rfl

/-- A handler that stores a byte of the registers. -/
theorem StoresByte.of_handler {i : Instr} {v : State → Byte}
    (hx : ∀ s, exec i s = runInstr i (fun d => readState >>= fun s => storeOperand d (v s)) s)
    (hv : ∀ d s, v (s.advance d) = v s) : StoresByte i v := by
  intro d s hd
  have e : exec i s = outcome (storeOperand d (v s) (s.advance d)) := by
    rw [hx, runInstr_of_descriptor hd, M.bind_of_ok (readState_apply _), hv]
  refine ⟨fun r t hr ht => ?_, fun c t h => ?_, fun r t h => ⟨fun u hs => ?_, fun c u hs => ?_⟩⟩
  · rw [e, storeOperand_advance hr ht]; rfl
  · rw [e, storeOperand, M.bind_of_error h]; rfl
  · rw [e, storeOperand, M.bind_of_ok h, hs]; rfl
  · rw [e, storeOperand, M.bind_of_ok h, hs]; rfl

/-- A handler that is Modify. -/
theorem ModifiesByte.of_handler {i : Instr} {f : Byte → State → Byte × State}
    (hx : ∀ s, exec i s = runInstr i (fun d => modifyOperand d f) s) : ModifiesByte i f := by
  intro d s hd
  have e : exec i s = outcome (modifyOperand d f (s.advance d)) := by rw [hx, runInstr_of_descriptor hd]
  refine ⟨fun hm => ?_, fun hm => ⟨fun r v t hr hv ht => ?_, fun c t h => ?_, fun r t h =>
    ⟨fun c u hl => ?_, fun v u hl => ⟨fun w hs => ?_, fun c w hs => ?_⟩⟩⟩⟩
  · rw [e, modifyOperand, if_pos hm]; rfl
  · have hl : busLoad r (s.resolved d r) = .ok v (s.resolved d r) := busLoad_quiet hv
    rw [e, modifyOperand_of_resolve hm (resolve_quiet hr)]
    change outcome (match busLoad r (s.resolved d r) with
      | .ok v u => busStore r (f v u).1 (f v u).2
      | .error c u => .error c u) = _
    rw [hl]
    simp only [busStore_quiet ht, outcome_ok]
  · rw [e, modifyOperand_of_error hm h]; rfl
  · rw [e, modifyOperand_of_resolve hm h, hl]; rfl
  · rw [e, modifyOperand_of_resolve hm h, hl]
    simp only [hs, outcome_ok]
  · rw [e, modifyOperand_of_resolve hm h, hl]
    simp only [hs, outcome_error]

/-- A handler that is Modify and then reads its operand again. -/
theorem CompositeOf.of_handler {i : Instr} {f : Byte → State → Byte × State} {g : Byte → State → State}
    {first second : Descriptor → M Unit} (hx : ∀ s, exec i s = runInstr i (composite first second) s)
    (h1 : ∀ d, first d = modifyOperand d f) (h2 : ∀ d, second d = readOperand d >>= fun m => update fun s => g m s)
    (hc : ∀ d, i.descriptor = some d → d.canCrossPage = false)
    (hm : ∀ d, i.descriptor = some d → modeIsValue d.mode = false) : CompositeOf i f g := by
  intro d s hd
  have e : exec i s = outcome ((modifyOperand d f >>= fun _ => readOperand d >>= fun m => update fun s => g m s)
      (s.advance d)) := by
    rw [hx, runInstr_of_descriptor hd, composite, h1, h2]
  have hv := hm d hd
  have ha : d.mode ≠ .accumulator := by
    intro h
    simp [h, modeIsValue] at hv
  refine ⟨fun r v t q m hr hb ht hq hqm => ?_, fun c t h => ?_, fun t h => ⟨fun m u hl => ?_, fun c u hl => ?_⟩⟩
  · have hmod : modifyOperand d f (s.advance d) = .ok () t := by
      rw [modifyOperand_of_resolve ha (resolve_unflagged (hc d hd) hr), busLoad_quiet hb]
      exact busStore_quiet ht
    have hread : readOperand d t = .ok m t := by
      rw [readOperand_of_resolve (resolve_unflagged (hc d hd) hq), hv]
      exact busLoad_quiet hqm
    rw [e, M.bind_of_ok hmod, M.bind_of_ok hread]; rfl
  · rw [e, M.bind_of_error h]; rfl
  · rw [e, M.bind_of_ok h, M.bind_of_ok hl]; rfl
  · rw [e, M.bind_of_ok h, M.bind_of_error hl]; rfl

end Sys2Proof.Machine
end

