-- ==== Sys2Proof/Laws/Invariant.lean ====
section
/-! SUPPORT. What a device access and a flag write keep: the invariant of Safety.lean, the CPU record, Break and unused. -/

namespace Sys2Proof.Machine

/-- The relation that a part of the state is kept. -/
theorem Frame.ofEq {α : Type} (g : State → α) : Frame (fun s t => g t = g s) :=
  ⟨fun _ => rfl, fun h1 h2 => h2.trans h1⟩

theorem RegBlock.load_wf {size : Nat} {d : RegBlock} (h : d.wf size = true) (name : DeviceName) (o : Nat) :
    (d.load name o).2.wf size = true := by
  cases d with
  | external ev => rfl
  | registers rs =>
    simp only [RegBlock.load]
    split <;> exact h

theorem RegBlock.store_wf {size : Nat} {d : RegBlock} (h : d.wf size = true) (name : DeviceName) (o : Nat) (v : Byte) :
    (d.store name o v).2.wf size = true := by
  cases d with
  | external ev => rfl
  | registers rs =>
    simp only [RegBlock.store]
    split
    · rename_i r hr
      simp only [RegBlock.wf, Bool.and_eq_true, beq_iff_eq, List.all_eq_true, List.length_set] at h ⊢
      refine ⟨h.1, fun x hx => ?_⟩
      rcases List.mem_or_eq_of_mem_set hx with hx | rfl
      · exact h.2 x hx
      · exact BiasedReg.store_wf (h.2 r (List.mem_of_getElem? hr)) v
    · exact h

theorem State.wf_iff (s : State) : s.wf = true ↔ s.ram.wf Config.ramSize = true ∧ s.prg.wf s.banks.prgSize = true ∧
    s.p &&& 0x30 = 0x20 ∧ s.ppu.wf Config.ppuRegs = true ∧ s.io.wf Config.ioRegs = true := by
  simp [State.wf, and_assoc]

theorem deviceLoad_wf {s : State} (h : s.wf = true) (d : DeviceId) (o : Nat) : (deviceLoad d o s).2.wf = true := by
  rw [State.wf_iff] at h ⊢
  obtain ⟨h1, h2, h3, h4, h5⟩ := h
  cases d with
  | ram => exact ⟨h1, h2, h3, h4, h5⟩
  | rom => exact ⟨h1, h2, h3, h4, h5⟩
  | mapper => exact ⟨h1, h2, h3, h4, h5⟩
  | ppu => exact ⟨h1, h2, h3, RegBlock.load_wf h4 _ _, h5⟩
  | io => exact ⟨h1, h2, h3, h4, RegBlock.load_wf h5 _ _⟩

theorem deviceStore_wf {s : State} (h : s.wf = true) (d : DeviceId) (o : Nat) (v : Byte) : (deviceStore d o v s).2.wf = true := by
  rw [State.wf_iff] at h
  obtain ⟨h1, h2, h3, h4, h5⟩ := h
  cases d with
  | ram =>
    simp only [deviceStore, ramStore]
    by_cases ho : o < Config.ramSize
    · simp only [ho, if_true]
      exact (State.wf_iff _).mpr ⟨Memory.write_wf h1 ho v, h2, h3, h4, h5⟩
    · simp only [ho, if_false]
      exact (State.wf_iff _).mpr ⟨h1, h2, h3, h4, h5⟩
  | rom => exact (State.wf_iff _).mpr ⟨h1, h2, h3, h4, h5⟩
  | mapper => exact (State.wf_iff _).mpr ⟨h1, h2, h3, h4, h5⟩
  | ppu => exact (State.wf_iff _).mpr ⟨h1, h2, h3, RegBlock.store_wf h4 _ _ _, h5⟩
  | io => exact (State.wf_iff _).mpr ⟨h1, h2, h3, h4, RegBlock.store_wf h5 _ _ _⟩

theorem putFlag_keptBits (p : Byte) {f : Flag} (b : Bool) (hb : f ≠ .break) (hu : f ≠ .unused) :
    putFlag p f b &&& 0x30 = p &&& 0x30 := by
  rw [keptBits_eq_iff]
  simp [hb, hu]

theorem pulledStatus_keptBits (p v : Byte) : pulledStatus p v &&& 0x30 = p &&& 0x30 := by
  rw [keptBits_eq_iff]
  simp [flagOf_pulledStatus]

/-- A load changes no register of the CPU (20_memory.md R35). -/
theorem deviceLoad_registers (d : DeviceId) (o : Nat) (s : State) :
    getRegisters (deviceLoad d o s).2 = getRegisters s := by
  rw [(deviceLoad_onlyDevices d o s).1]
  rfl

/-- A store changes no register of the CPU (20_memory.md R36). -/
theorem deviceStore_registers (d : DeviceId) (o : Nat) (v : Byte) (s : State) :
    getRegisters (deviceStore d o v s).2 = getRegisters s := by
  rw [(deviceStore_onlyBus d o v s).1]
  rfl

/-- A load changes nothing but the state of a device that has one. -/
theorem deviceLoad_fixed (d : DeviceId) (o : Nat) (s : State) :
    (deviceLoad d o s).2.pc = s.pc ∧ (deviceLoad d o s).2.sp = s.sp ∧ (deviceLoad d o s).2.a = s.a ∧
    (deviceLoad d o s).2.x = s.x ∧ (deviceLoad d o s).2.y = s.y ∧ (deviceLoad d o s).2.p = s.p ∧
    (deviceLoad d o s).2.cyc = s.cyc ∧ (deviceLoad d o s).2.ram = s.ram ∧ (deviceLoad d o s).2.prg = s.prg ∧
    (deviceLoad d o s).2.banks = s.banks ∧ (deviceLoad d o s).2.mapper.present = s.mapper.present ∧
    (deviceLoad d o s).2.operandWrap = s.operandWrap ∧ (deviceLoad d o s).2.intCycles = s.intCycles ∧
    (deviceLoad d o s).2.cycReset = s.cycReset := by
  have h := (deviceLoad_onlyDevices d o s).2
  rw [(deviceLoad_onlyDevices d o s).1] at h ⊢
  exact ⟨rfl, rfl, rfl, rfl, rfl, rfl, rfl, rfl, rfl, rfl, h, rfl, rfl, rfl⟩

/-- A store changes nothing but RAM and the state of a device that has one. -/
theorem deviceStore_fixed (d : DeviceId) (o : Nat) (v : Byte) (s : State) :
    (deviceStore d o v s).2.pc = s.pc ∧ (deviceStore d o v s).2.sp = s.sp ∧ (deviceStore d o v s).2.a = s.a ∧
    (deviceStore d o v s).2.x = s.x ∧ (deviceStore d o v s).2.y = s.y ∧ (deviceStore d o v s).2.p = s.p ∧
    (deviceStore d o v s).2.cyc = s.cyc ∧ (deviceStore d o v s).2.prg = s.prg ∧
    (deviceStore d o v s).2.banks = s.banks ∧ (deviceStore d o v s).2.mapper.present = s.mapper.present ∧
    (deviceStore d o v s).2.operandWrap = s.operandWrap ∧ (deviceStore d o v s).2.intCycles = s.intCycles ∧
    (deviceStore d o v s).2.cycReset = s.cycReset := by
  have h := (deviceStore_onlyBus d o v s).2
  rw [(deviceStore_onlyBus d o v s).1] at h ⊢
  exact ⟨rfl, rfl, rfl, rfl, rfl, rfl, rfl, rfl, rfl, h, rfl, rfl, rfl⟩

/-- No access changes where the router sends an address. -/
theorem deviceLoad_route (d : DeviceId) (o : Nat) (s : State) (a : Word) : (deviceLoad d o s).2.route a = s.route a := by
  simp only [State.route, deviceLoad_fixed]

theorem deviceStore_route (d : DeviceId) (o : Nat) (v : Byte) (s : State) (a : Word) :
    (deviceStore d o v s).2.route a = s.route a := by
  simp only [State.route, deviceStore_fixed]

theorem RegBlock.load_quiet (b : RegBlock) (name : DeviceName) (o q : Nat) :
    (b.load name o).2.quiet? q = b.quiet? q := by
  cases b with
  | external events => rfl
  | registers regs =>
    simp only [RegBlock.load]
    split <;> rfl

theorem Mapper.load_quiet (banks : Banks) (prg : Memory) (d : Mapper) (o q : Nat) :
    (d.load banks prg o).2.quiet? prg q = d.quiet? prg q := by
  cases d <;> rfl

/-- A load changes no byte of memory as it reads. -/
theorem deviceLoad_quiet (d : DeviceId) (o : Nat) (s : State) (a : Word) :
    (deviceLoad d o s).2.quietByte? a = s.quietByte? a := by
  unfold State.quietByte?
  rw [deviceLoad_route]
  cases s.route a with
  | error e => rfl
  | ok p =>
    obtain ⟨e, q⟩ := p
    cases e <;> cases d <;> simp [deviceLoad, RegBlock.load_quiet, Mapper.load_quiet]

/-- Loads and penalties keep the CPU registers. -/
theorem registers_loadFrame : LoadFrame (fun s t => getRegisters t = getRegisters s) :=
  { Frame.ofEq getRegisters with
    load := deviceLoad_registers
    cycles := fun _ _ => rfl }

theorem busLoad_registers {a : Word} {s t : State} {v : Byte} (h : busLoad a s = .ok v t) :
    getRegisters t = getRegisters s := (Keeps.busLoad registers_loadFrame a).of_ok h

/-- Resolving an operand, wherever it is read from, keeps the CPU registers (40_engine.md R72). -/
theorem resolve_registers {d : Descriptor} {r : Word} {s t : State} (h : resolve d s = .ok r t) :
    getRegisters t = getRegisters s := (Keeps.resolve registers_loadFrame d).of_ok h

end Sys2Proof.Machine
end

