-- ==== Sys2Proof/Laws/Run.lean ====
section
/-! SUPPORT. Runs and their record: how a run of host actions is put together, and what the observable trace holds after
each step (40_engine.md R79 to R81). -/

namespace Sys2Proof.Machine

@[simp] theorem RunRecord.after_lines (line : RunLine) (r : RunRecord) : (r.after line).lines = line :: r.lines := rfl
@[simp] theorem RunRecord.after_outcome (line : RunLine) (r : RunRecord) : (r.after line).outcome = r.outcome := rfl

/-- A line of a step adds its tuple to the trace; a line of another action adds nothing. -/
@[simp] theorem RunRecord.after_trace (line : RunLine) (r : RunRecord) :
    (r.after line).trace = if line.action = .step then line.tuple :: r.trace else r.trace := by
  by_cases h : line.action = .step <;> simp [RunRecord.trace, h]

@[simp] theorem recordRun_nil (s : State) : recordRun [] s = ⟨[], .next s⟩ := rfl

/-- An action that completes has the first line, and the run goes on from its state. -/
theorem recordRun_of_next {act : HostAction} {s t : State} {reply : Reply} (h : act.run s = .next (t, reply))
    (rest : List HostAction) :
    recordRun (act :: rest) s = (recordRun rest t).after ⟨act, some reply, traceTuple t⟩ := by
  simp only [recordRun, h]

/-- An action that faults has the last line, whatever actions were to follow. -/
theorem recordRun_of_fault {act : HostAction} {s : State} {f : Fault} (h : act.run s = .fault f)
    (rest : List HostAction) :
    recordRun (act :: rest) s = ⟨[⟨act, none, traceTuple (faultedState f)⟩], .fault f⟩ := by
  simp only [recordRun, h]

/-- The run of a list that begins with an action that completes. -/
theorem recordRun_outcome_next {act : HostAction} {rest : List HostAction} {s t : State}
    (h : (recordRun (act :: rest) s).outcome = .next t) :
    ∃ u reply, act.run s = .next (u, reply) ∧ (recordRun rest u).outcome = .next t := by
  cases hr : act.run s with
  | next p => exact ⟨p.1, p.2, rfl, by rwa [recordRun_of_next hr] at h⟩
  | fault f => rw [recordRun_of_fault hr] at h; cases h
  | refused r => simp only [recordRun, hr] at h; cases h

/-- A run that completes and then goes on: the lines come one after the other, and the end is that of the second part. -/
theorem recordRun_append {acts : List HostAction} (more : List HostAction) {s t : State}
    (h : (recordRun acts s).outcome = .next t) :
    recordRun (acts ++ more) s =
      ⟨(recordRun acts s).lines ++ (recordRun more t).lines, (recordRun more t).outcome⟩ := by
  induction acts generalizing s with
  | nil => cases h; rfl
  | cons act rest ih =>
    obtain ⟨u, reply, hr, hu⟩ := recordRun_outcome_next h
    rw [List.cons_append, recordRun_of_next hr, recordRun_of_next hr, ih hu]
    rfl

/-- The trace of a run that goes on. -/
theorem runTrace_append {acts : List HostAction} (more : List HostAction) {s t : State}
    (h : runActions acts s = .next t) : runTrace (acts ++ more) s = runTrace acts s ++ runTrace more t := by
  unfold runTrace
  rw [recordRun_append more h]
  simp [RunRecord.trace]

/-- A run that completes has one line for each of its actions. -/
theorem recordRun_actions {acts : List HostAction} {s t : State} (h : (recordRun acts s).outcome = .next t) :
    (recordRun acts s).lines.map RunLine.action = acts := by
  induction acts generalizing s with
  | nil => rfl
  | cons act rest ih =>
    obtain ⟨u, reply, hr, hu⟩ := recordRun_outcome_next h
    rw [recordRun_of_next hr, RunRecord.after_lines, List.map_cons, ih hu]

theorem run_step_of_next {s t : State} (h : step s = .next t) :
    HostAction.step.run s = .next (t, .executed (stepDescriptor s)) := by simp only [HostAction.run, h]

theorem run_step_of_fault {s : State} {f : Fault} (h : step s = .fault f) :
    HostAction.step.run s = .fault f := by simp only [HostAction.run, h]

theorem runLoop_of_next {s t : State} (h : step s = .next t) (turns : Nat) :
    runLoop (turns + 1) s = (runLoop turns t).after ⟨.step, some (.executed (stepDescriptor s)), traceTuple t⟩ :=
  recordRun_of_next (run_step_of_next h) _

theorem runLoop_of_fault {s : State} {f : Fault} (h : step s = .fault f) (turns : Nat) :
    runLoop (turns + 1) s = ⟨[⟨.step, none, traceTuple (faultedState f)⟩], .fault f⟩ :=
  recordRun_of_fault (run_step_of_fault h) _

/-- Steps of the core that complete begin with one that does. -/
theorem coreRun_next {turns : Nat} {s t : State} (h : Host.Core.run core (turns + 1) s = .next t) :
    ∃ u : State, step s = .next u ∧ Host.Core.run core turns u = .next t := by
  cases hs : step s with
  | next u =>
    simp only [Host.Core.run, show core.step s = .next u from hs] at h
    exact ⟨u, rfl, h⟩
  | fault f => simp only [Host.Core.run, show core.step s = .fault f from hs] at h; cases h
  | refused r => simp only [Host.Core.run, show core.step s = .refused r from hs] at h; cases h

/-- The loop ends as the same number of steps of the core does. -/
theorem runLoop_outcome (turns : Nat) (s : State) : (runLoop turns s).outcome = Host.Core.run core turns s := by
  induction turns generalizing s with
  | zero => rfl
  | succ n ih =>
    cases h : step s with
    | next t =>
      rw [runLoop_of_next h]
      simp only [RunRecord.after_outcome, ih, Host.Core.run, show core.step s = .next t from h]
      rfl
    | fault f =>
      rw [runLoop_of_fault h]
      simp only [Host.Core.run, show core.step s = .fault f from h]
      rfl
    | refused r =>
      simp only [runLoop, List.replicate_succ, recordRun, HostAction.run, h, Host.Core.run,
        show core.step s = .refused r from h]
      rfl

/-- A loop whose turns all complete leaves one tuple for each (40_engine.md R81). -/
theorem runLoop_trace_length {turns : Nat} {s t : State} (h : Host.Core.run core turns s = .next t) :
    (runLoop turns s).trace.length = turns := by
  induction turns generalizing s with
  | zero => rfl
  | succ n ih =>
    obtain ⟨u, hs, hu⟩ := coreRun_next h
    rw [runLoop_of_next hs, RunRecord.after_trace, if_pos rfl, List.length_cons, ih hu]

/-- Entry k of the loop's trace is the tuple of the state after k + 1 steps (40_engine.md R81). -/
theorem runLoop_trace_get {k turns : Nat} {s t : State} (hk : k < turns)
    (h : Host.Core.run core (k + 1) s = .next t) : (runLoop turns s).trace[k]? = some (traceTuple t) := by
  induction k generalizing s turns with
  | zero =>
    obtain ⟨n, rfl⟩ : ∃ n, turns = n + 1 := ⟨turns - 1, by omega⟩
    obtain ⟨u, hs, hu⟩ := coreRun_next h
    cases hu
    rw [runLoop_of_next hs, RunRecord.after_trace, if_pos rfl]
    rfl
  | succ k ih =>
    obtain ⟨n, rfl⟩ : ∃ n, turns = n + 1 := ⟨turns - 1, by omega⟩
    obtain ⟨u, hs, hu⟩ := coreRun_next h
    rw [runLoop_of_next hs, RunRecord.after_trace, if_pos rfl, List.getElem?_cons_succ]
    exact ih (by omega) hu

/-- The step that faults has the last tuple of the loop's trace, that of the faulted state (95_test_vectors.md P5). -/
theorem runLoop_trace_fault {k turns : Nat} {s t : State} {f : Fault} (hk : k < turns)
    (h : Host.Core.run core k s = .next t) (hf : step t = .fault f) :
    (runLoop turns s).trace[k]? = some (traceTuple (faultedState f)) ∧ (runLoop turns s).trace.length = k + 1 := by
  induction k generalizing s turns with
  | zero =>
    obtain ⟨n, rfl⟩ : ∃ n, turns = n + 1 := ⟨turns - 1, by omega⟩
    cases h
    rw [runLoop_of_fault hf]
    exact ⟨rfl, rfl⟩
  | succ k ih =>
    obtain ⟨n, rfl⟩ : ∃ n, turns = n + 1 := ⟨turns - 1, by omega⟩
    obtain ⟨u, hs, hu⟩ := coreRun_next h
    rw [runLoop_of_next hs, RunRecord.after_trace, if_pos rfl, List.getElem?_cons_succ, List.length_cons]
    obtain ⟨h1, h2⟩ := ih (turns := n) (by omega) hu
    exact ⟨h1, by rw [h2]⟩

end Sys2Proof.Machine
end

