-- ==== Sys2Proof/Laws/Stack.lean ====
section
/-! SUPPORT. All that the stack operations and the interrupt entry do, as equations: how many pushes or pops succeed depends
on SP alone (20_memory.md R40, R41), and the vectors lie in ROM (60_exceptions.md R160). -/

namespace Sys2Proof.Machine

@[simp] theorem State.pushed_sp (s : State) (v : Byte) : (s.pushed v).sp = s.sp - 1 := rfl
@[simp] theorem State.pushed_pc (s : State) (v : Byte) : (s.pushed v).pc = s.pc := rfl
@[simp] theorem State.pushed_a (s : State) (v : Byte) : (s.pushed v).a = s.a := rfl
@[simp] theorem State.pushed_x (s : State) (v : Byte) : (s.pushed v).x = s.x := rfl
@[simp] theorem State.pushed_y (s : State) (v : Byte) : (s.pushed v).y = s.y := rfl
@[simp] theorem State.pushed_p (s : State) (v : Byte) : (s.pushed v).p = s.p := rfl
@[simp] theorem State.pushed_ram (s : State) (v : Byte) :
    (s.pushed v).ram = s.ram.write (0x0100 + s.sp.toNat) v := rfl
@[simp] theorem State.pushed_prg (s : State) (v : Byte) : (s.pushed v).prg = s.prg := rfl
@[simp] theorem State.pushed_banks (s : State) (v : Byte) : (s.pushed v).banks = s.banks := rfl
@[simp] theorem State.pushed_intCycles (s : State) (v : Byte) : (s.pushed v).intCycles = s.intCycles := rfl
@[simp] theorem State.pushed_route (s : State) (v : Byte) (a : Word) : (s.pushed v).route a = s.route a := rfl

@[simp] theorem State.past_sp (s : State) (l c : Nat) : (s.past l c).sp = s.sp := rfl
@[simp] theorem State.past_pc (s : State) (l c : Nat) : (s.past l c).pc = s.pc + BitVec.ofNat 16 l := rfl
@[simp] theorem State.past_a (s : State) (l c : Nat) : (s.past l c).a = s.a := rfl
@[simp] theorem State.past_x (s : State) (l c : Nat) : (s.past l c).x = s.x := rfl
@[simp] theorem State.past_y (s : State) (l c : Nat) : (s.past l c).y = s.y := rfl
@[simp] theorem State.past_p (s : State) (l c : Nat) : (s.past l c).p = s.p := rfl
@[simp] theorem State.past_ram (s : State) (l c : Nat) : (s.past l c).ram = s.ram := rfl
@[simp] theorem State.past_prg (s : State) (l c : Nat) : (s.past l c).prg = s.prg := rfl
@[simp] theorem State.past_banks (s : State) (l c : Nat) : (s.past l c).banks = s.banks := rfl

/-- The advance of an instruction is the state past it. -/
theorem advance_eq_past (s : State) (d : Descriptor) : s.advance d = s.past d.length d.cycles := rfl

theorem push_ok {s : State} (h : s.sp ≠ 0x00) (v : Byte) : push v s = .ok () (s.pushed v) := by
  rw [push_eq, if_neg h]

theorem push_error {s : State} (h : s.sp = 0x00) (v : Byte) :
    push v s = .error (.memory (.stackOverflow 0x00)) s := by
  rw [push_eq, if_pos h, h]

theorem pop_ok {s : State} (h : s.sp ≠ 0xFF) : pop s = .ok s.top (s.setSp (s.sp + 1)) := by
  rw [pop_eq, if_neg h]

theorem pop_error {s : State} (h : s.sp = 0xFF) : pop s = .error (.memory (.stackUnderflow 0xFF)) s := by
  rw [pop_eq, if_pos h, h]

theorem pushed_wf {s : State} (h : s.ram.wf Config.ramSize = true) (v : Byte) :
    (s.pushed v).ram.wf Config.ramSize = true :=
  Memory.write_wf h (by have := s.sp.isLt; simp only [Config.ramSize]; omega) _

/-- The last byte pushed is the next one popped. -/
theorem pushed_top {s : State} (h : s.ram.wf Config.ramSize = true) (v : Byte) : (s.pushed v).top = v := by
  have e : s.sp - 1 + 1 = s.sp := by simp
  simp only [State.top, State.pushed_sp, State.pushed_ram, e]
  rw [Memory.read_write h, if_pos rfl]

/-- A word pushed where there is room for two bytes (90_conflicts.md C7). -/
theorem pushWord_ok {s : State} (h0 : s.sp ≠ 0x00) (h1 : s.sp ≠ 0x01) (w : Word) :
    pushWord w s = .ok () ((s.pushed (hi w)).pushed (lo w)) := by
  have h2 : (s.pushed (hi w)).sp ≠ 0x00 := by
    simp only [State.pushed_sp]
    bv_omega
  rw [pushWord, M.bind_of_ok (push_ok h0 _), push_ok h2]

/-- A word popped where two bytes are left. -/
theorem popWord_ok {s : State} (h0 : s.sp ≠ 0xFF) (h1 : s.sp ≠ 0xFE) :
    popWord s = .ok (cat (s.ram.read (0x0100 + (s.sp + 2).toNat)) (s.ram.read (0x0100 + (s.sp + 1).toNat)))
      (s.setSp (s.sp + 2)) := by
  have h2 : (s.setSp (s.sp + 1)).sp ≠ 0xFF := by
    simp only [State.setSp_sp]
    bv_omega
  have e : s.sp + 1 + 1 = s.sp + 2 := by bv_omega
  rw [popWord, M.bind_of_ok (pop_ok h0), M.bind_of_ok (pop_ok h2)]
  simp only [M.pure_apply, State.top, State.setSp_sp, State.setSp_ram, e]
  rfl

/-- A byte of program ROM at an address near the top of memory, for both bank counts. -/
theorem quietByte?_rom (s : State) {a : Word} (h : 0xC000 ≤ a.toNat) :
    s.quietByte? a = some (s.prg.read (a.toNat - s.banks.romOffset)) := by
  have e : s.route a = .ok (.rom, a.toNat - s.banks.romOffset) := by
    unfold State.route route
    rw [if_neg (by omega), if_neg (by omega), if_neg (by omega),
      if_pos (by cases s.banks <;> simp only [Banks.romOffset] <;> omega)]
  simp [State.quietByte?, e]

/-- The IRQ vector is the last word of PRG (20_memory.md R47). -/
theorem busLoad16_vecIrq (s : State) : busLoad16 Config.vecIrq s =
    .ok (cat (s.prg.read (s.banks.prgSize - 1)) (s.prg.read (s.banks.prgSize - 2))) s := by
  have e : nextInPage Config.vecIrq = 0xFFFF := by decide
  apply busLoad16_quiet
  rw [State.quietWord?, e, quietByte?_rom s (by decide), quietByte?_rom s (by decide)]
  cases s.banks <;> rfl

/-- The NMI vector is the sixth-last and fifth-last byte of PRG (20_memory.md R47). -/
theorem busLoad16_vecNmi (s : State) : busLoad16 Config.vecNmi s =
    .ok (cat (s.prg.read (s.banks.prgSize - 5)) (s.prg.read (s.banks.prgSize - 6))) s := by
  have e : nextInPage Config.vecNmi = 0xFFFB := by decide
  apply busLoad16_quiet
  rw [State.quietWord?, e, quietByte?_rom s (by decide), quietByte?_rom s (by decide)]
  cases s.banks <;> rfl

/-- The interrupt entry where there is room for its three bytes (60_exceptions.md R160). -/
theorem intSeq_ok {s : State} (h : 3 ≤ s.sp.toNat) {vec target : Word}
    (hv : ∀ t : State, t.prg = s.prg → t.banks = s.banks → busLoad16 vec t = .ok target t) (ret : Word) (brk : Bool) :
    intSeq ret brk vec s =
      .ok () (((((s.pushed (hi ret)).pushed (lo ret)).pushed
        (if brk then pushedBreak s.p else pushedInterrupt s.p)).setFlag .interruptDisable true).setPc target) := by
  have h0 : s.sp ≠ 0x00 := by rintro e; rw [e] at h; exact absurd h (by decide)
  have h1 : s.sp ≠ 0x01 := by rintro e; rw [e] at h; exact absurd h (by decide)
  have h2 : s.sp ≠ 0x02 := by rintro e; rw [e] at h; exact absurd h (by decide)
  have h3 : ((s.pushed (hi ret)).pushed (lo ret)).sp ≠ 0x00 := by
    simp only [State.pushed_sp]
    bv_omega
  rw [intSeq, M.bind_of_ok (pushWord_ok h0 h1 ret), M.bind_of_ok (readState_apply _), M.bind_of_ok (push_ok h3 _),
    M.bind_of_ok (update_apply _ _)]
  refine (M.bind_of_ok (hv _ ?_ ?_)).trans ?_ <;> rfl

/-- A push that answers was made with room left. -/
theorem push_inv {s t : State} {v : Byte} (h : push v s = .ok () t) : s.sp ≠ 0x00 ∧ t = s.pushed v := by
  rw [push_eq] at h
  split at h
  · cases h
  · rename_i hn
    cases h
    exact ⟨hn, rfl⟩

theorem pushWord_error_first {s : State} (h : s.sp = 0x00) (w : Word) :
    pushWord w s = .error (.memory (.stackOverflow 0x00)) s := by
  rw [pushWord, M.bind_of_error (push_error h _)]

theorem pushWord_error_second {s : State} (h : s.sp = 0x01) (w : Word) :
    pushWord w s = .error (.memory (.stackOverflow 0x00)) (s.pushed (hi w)) := by
  rw [pushWord, M.bind_of_ok (push_ok (by rw [h]; decide) _), push_error (by simp [h])]

theorem popWord_error_first {s : State} (h : s.sp = 0xFF) :
    popWord s = .error (.memory (.stackUnderflow 0xFF)) s := by
  rw [popWord, M.bind_of_error (pop_error h)]

theorem popWord_error_second {s : State} (h : s.sp = 0xFE) :
    popWord s = .error (.memory (.stackUnderflow 0xFF)) (s.setSp 0xFF) := by
  have e : s.sp + 1 = 0xFF := by rw [h]; decide
  rw [popWord, M.bind_of_ok (pop_ok (by rw [h]; decide)), M.bind_of_error (pop_error (by simp only [State.setSp_sp, e])), e]

theorem popStatus_ok {s : State} (h : s.sp ≠ 0xFF) :
    popStatus s = .ok () ((s.setSp (s.sp + 1)).setP (pulledStatus s.p s.top)) := by
  rw [popStatus, M.bind_of_ok (pop_ok h)]
  rfl

theorem popStatus_error {s : State} (h : s.sp = 0xFF) :
    popStatus s = .error (.memory (.stackUnderflow 0xFF)) s := by
  rw [popStatus, M.bind_of_error (pop_error h)]

/-- The entry faults at the push that finds no room, the earlier ones done (60_exceptions.md R160). -/
theorem intSeq_error_first {s : State} (h : s.sp = 0x00) (ret : Word) (brk : Bool) (vec : Word) :
    intSeq ret brk vec s = .error (.memory (.stackOverflow 0x00)) s := by
  rw [intSeq, M.bind_of_error (pushWord_error_first h _)]

theorem intSeq_error_second {s : State} (h : s.sp = 0x01) (ret : Word) (brk : Bool) (vec : Word) :
    intSeq ret brk vec s = .error (.memory (.stackOverflow 0x00)) (s.pushed (hi ret)) := by
  rw [intSeq, M.bind_of_error (pushWord_error_second h _)]

theorem intSeq_error_third {s : State} (h : s.sp = 0x02) (ret : Word) (brk : Bool) (vec : Word) :
    intSeq ret brk vec s = .error (.memory (.stackOverflow 0x00)) ((s.pushed (hi ret)).pushed (lo ret)) := by
  rw [intSeq, M.bind_of_ok (pushWord_ok (by rw [h]; decide) (by rw [h]; decide) _), M.bind_of_ok (readState_apply _),
    M.bind_of_error (push_error (by simp [h]) _)]

/-- A push changes no byte but its own, at that address and its mirrors. -/
theorem pushed_quiet {s : State} (h : s.ram.wf Config.ramSize = true) (v : Byte) {a : Word}
    (hn : ¬ s.sameCell (stackAddr s.sp) a) : (s.pushed v).quietByte? a = s.quietByte? a := by
  unfold State.quietByte?
  rw [State.pushed_route]
  cases hr : s.route a with
  | error e => rfl
  | ok p =>
    obtain ⟨d, o⟩ := p
    cases d with
    | ram =>
      simp only [State.pushed_ram]
      rw [Memory.read_write h]
      by_cases ho : o = 0x0100 + s.sp.toNat
      · exact absurd ⟨_, route_stackAddr s s.sp, by rw [hr, ho]⟩ hn
      · simp [ho]
    | ppu => rfl
    | io => rfl
    | rom => rfl
    | mapper => rfl

end Sys2Proof.Machine
end

