-- ==== Sys2Proof/Machine/Disassemble.lean ====
section
/-! DEFINITION. The disassembly text of an instruction: the mnemonic, then the operand rendered by mode
(30_encoding.md R66, D37). Display only; log entry 14. -/

namespace Sys2Proof.Machine

/-- An upper-case hexadecimal digit. -/
def hexDigit (n : Nat) : String :=
  ["0", "1", "2", "3", "4", "5", "6", "7", "8", "9", "A", "B", "C", "D", "E", "F"].getD n ""

/-- `nn`: a byte in two upper-case hexadecimal digits. -/
def hexByte (b : Byte) : String := hexDigit (b.toNat / 16) ++ hexDigit (b.toNat % 16)

/-- `nnnn`: a word in four upper-case hexadecimal digits. -/
def hexWord (w : Word) : String := hexByte (hi w) ++ hexByte (lo w)

/-- A byte operand's text by mode; for Relative the branch target, from the address after the instruction. -/
def byteOperandText (m : Mode) (next : Word) (b : Byte) : String :=
  match m with
  | .immediate => "#$" ++ hexByte b
  | .zeroPage => "$" ++ hexByte b
  | .zeroPageX => "$" ++ hexByte b ++ ",X"
  | .zeroPageY => "$" ++ hexByte b ++ ",Y"
  | .indirectX => "($" ++ hexByte b ++ ",X)"
  | .indirectY => "($" ++ hexByte b ++ "),Y"
  | .relative => "$" ++ hexWord (next + sext16 b)
  | _ => ""

/-- A word operand's text by mode. -/
def wordOperandText (m : Mode) (w : Word) : String :=
  match m with
  | .absolute => "$" ++ hexWord w
  | .absoluteX => "$" ++ hexWord w ++ ",X"
  | .absoluteY => "$" ++ hexWord w ++ ",Y"
  | .indirect => "($" ++ hexWord w ++ ")"
  | _ => ""

/-- The operand's text, empty where the mode has none. -/
def operandText (m : Mode) (next : Word) (o : OperandBytes) : String :=
  match o with
  | .none => if m = .accumulator then "A" else ""
  | .one b1 => byteOperandText m next b1
  | .two b1 b2 => wordOperandText m (cat b2 b1)

/-- The text of an instruction that stands at an address. -/
def disassemble (at_ : Word) (e : Encoded) : String :=
  let text := operandText e.instr.mode (at_ + BitVec.ofNat 16 e.instr.mode.length) e.operand
  if text = "" then e.instr.mnemonic else e.instr.mnemonic ++ " " ++ text

end Sys2Proof.Machine
end

