-- ==== Sys2Proof/Tests/Slice0.lean ====
section
/-! SUPPORT. Tests whose expected values come from spec/: the opcode table, the vectors T20 to T70 of 95_test_vectors.md and
its examples E2 to E11; then, for every statement with hypotheses, states that meet them. -/

namespace Sys2Proof.Tests

open Sys2Proof.Machine

set_option Elab.async false

/-! What the tests compare: outcomes and results by their parts. -/

/-- The next state of an outcome. -/
def nextState : Host.Outcome State Fault Refusal → Option State
  | .next t => some t
  | _ => none

/-- The cause and the final state of a fault. -/
def faultParts : Host.Outcome State Fault Refusal → Option (Cause × State)
  | .fault (.memory e t) => some (.memory e, t)
  | .fault (.illegal e t) => some (.illegal e, t)
  | _ => none

/-- The value and the state of a computation that ends well. -/
def okParts {α : Type} : EStateM.Result Cause State α → Option (α × State)
  | .ok v t => some (v, t)
  | .error _ _ => none

/-- The cause and the state of a computation that faults. -/
def errorParts {α : Type} : EStateM.Result Cause State α → Option (Cause × State)
  | .ok _ _ => none
  | .error c t => some (c, t)

/-- A memory with cells written into it. -/
def writeAll (m : Memory) (cells : List Host.Cell) : Memory := cells.foldl (fun n c => n.write c.1 c.2) m

/-- A vector of 95_test_vectors.md: where the start differs from the reset state, the bytes at PC, the tuple after one
step (its CYC counted from the start), the RAM bytes it changes, and the fault if there is one. -/
structure TestVector where
  pc : Word := 0xC000
  a : Byte := 0x00
  x : Byte := 0x00
  y : Byte := 0x00
  sp : Byte := 0xFD
  p : Byte := 0x24
  wrap : Bool := true
  ram : Memory := []
  rom : Memory := []
  code : List Byte
  tuple : Word × Byte × Byte × Byte × Byte × Byte × Nat
  stored : List Host.Cell := []
  stop : Option Cause := none

/-- The start state of a vector: one bank, no mapper. -/
def TestVector.start (v : TestVector) : State :=
  { State.reset with
    pc := v.pc, a := v.a, x := v.x, y := v.y, sp := v.sp, p := v.p, operandWrap := v.wrap, ram := v.ram,
    prg := writeAll v.rom ((List.range v.code.length).zip v.code |>.map fun c => (v.pc.toNat - 0xC000 + c.1, c.2)) }

/-- The end state of a vector: its registers and cycles, its RAM bytes, and nothing else changed. -/
def TestVector.finish (v : TestVector) : State :=
  { v.start with
    pc := v.tuple.1, a := v.tuple.2.1, x := v.tuple.2.2.1, y := v.tuple.2.2.2.1, sp := v.tuple.2.2.2.2.1,
    p := v.tuple.2.2.2.2.2.1, cyc := v.tuple.2.2.2.2.2.2, ram := writeAll v.ram v.stored }

/-- Whether one step takes the start state to the end state, in the whole state, with the fault the vector names. -/
def TestVector.passes (v : TestVector) : Bool :=
  v.start.ram.wf Config.ramSize &&
  match v.stop with
  | none => nextState (step v.start) == some v.finish
  | some c => faultParts (step v.start) == some (c, v.finish)

/-- Whether all vectors of a list pass. -/
def passAll (vs : List TestVector) : Bool := vs.all TestVector.passes

/-- Whether each opcode decodes to the instruction beside it. -/
def decodesAll (rows : List (List (Byte × Instr))) : Bool := rows.all fun l => l.all fun r => decode r.1 == r.2

/-- Whether the table gives each descriptor for its opcode. -/
def describesAll (ds : List Descriptor) : Bool := ds.all fun d => lookup d.opcode == d

/-! Decoding: every opcode, as the Encoding line of its rule gives it. -/

/-- The opcodes of the Encoding lines, R83 to R86. -/
theorem test_decode_load_store_transfer : decodesAll
    [[(0xA1, .lda .indirectX), (0xA5, .lda .zeroPage), (0xA9, .lda .immediate), (0xAD, .lda .absolute),
      (0xB1, .lda .indirectY), (0xB5, .lda .zeroPageX)],
     [(0xB9, .lda .absoluteY), (0xBD, .lda .absoluteX), (0xA2, .ldx .immediate), (0xA6, .ldx .zeroPage),
      (0xAE, .ldx .absolute), (0xB6, .ldx .zeroPageY)],
     [(0xBE, .ldx .absoluteY), (0xA0, .ldy .immediate), (0xA4, .ldy .zeroPage), (0xAC, .ldy .absolute),
      (0xB4, .ldy .zeroPageX), (0xBC, .ldy .absoluteX)],
     [(0x81, .sta .indirectX), (0x85, .sta .zeroPage), (0x8D, .sta .absolute), (0x91, .sta .indirectY),
      (0x95, .sta .zeroPageX), (0x99, .sta .absoluteY)]] = true := by decide +kernel

/-- The opcodes of the Encoding lines, R86 to R94. -/
theorem test_decode_load_store_transfer_1 : decodesAll
    [[(0x9D, .sta .absoluteX), (0x86, .stx .zeroPage), (0x8E, .stx .absolute), (0x96, .stx .zeroPageY),
      (0x84, .sty .zeroPage), (0x8C, .sty .absolute)],
     [(0x94, .sty .zeroPageX), (0xAA, .tax), (0xA8, .tay), (0x8A, .txa), (0x98, .tya), (0xBA, .tsx)],
     [(0x9A, .txs)]] = true := by decide +kernel

/-- The opcodes of the Encoding lines, R97 to R99. -/
theorem test_decode_arith_logic : decodesAll
    [[(0x61, .adc .indirectX), (0x65, .adc .zeroPage), (0x69, .adc .immediate), (0x6D, .adc .absolute),
      (0x71, .adc .indirectY), (0x75, .adc .zeroPageX)],
     [(0x79, .adc .absoluteY), (0x7D, .adc .absoluteX), (0xE1, .sbc .indirectX), (0xE5, .sbc .zeroPage),
      (0xE9, .sbc .immediate), (0xED, .sbc .absolute)],
     [(0xF1, .sbc .indirectY), (0xF5, .sbc .zeroPageX), (0xF9, .sbc .absoluteY), (0xFD, .sbc .absoluteX),
      (0x21, .and .indirectX), (0x25, .and .zeroPage)],
     [(0x29, .and .immediate), (0x2D, .and .absolute), (0x31, .and .indirectY), (0x35, .and .zeroPageX),
      (0x39, .and .absoluteY), (0x3D, .and .absoluteX)]] = true := by decide +kernel

/-- The opcodes of the Encoding lines, R100 to R104. -/
theorem test_decode_arith_logic_1 : decodesAll
    [[(0x01, .ora .indirectX), (0x05, .ora .zeroPage), (0x09, .ora .immediate), (0x0D, .ora .absolute),
      (0x11, .ora .indirectY), (0x15, .ora .zeroPageX)],
     [(0x19, .ora .absoluteY), (0x1D, .ora .absoluteX), (0x41, .eor .indirectX), (0x45, .eor .zeroPage),
      (0x49, .eor .immediate), (0x4D, .eor .absolute)],
     [(0x51, .eor .indirectY), (0x55, .eor .zeroPageX), (0x59, .eor .absoluteY), (0x5D, .eor .absoluteX),
      (0x24, .bit .zeroPage), (0x2C, .bit .absolute)],
     [(0xC1, .cmp .indirectX), (0xC5, .cmp .zeroPage), (0xC9, .cmp .immediate), (0xCD, .cmp .absolute),
      (0xD1, .cmp .indirectY), (0xD5, .cmp .zeroPageX)]] = true := by decide +kernel

/-- The opcodes of the Encoding lines, R104 to R112. -/
theorem test_decode_arith_logic_2 : decodesAll
    [[(0xD9, .cmp .absoluteY), (0xDD, .cmp .absoluteX), (0xE0, .cpx .immediate), (0xE4, .cpx .zeroPage),
      (0xEC, .cpx .absolute), (0xC0, .cpy .immediate)],
     [(0xC4, .cpy .zeroPage), (0xCC, .cpy .absolute), (0xE6, .inc .zeroPage), (0xEE, .inc .absolute),
      (0xF6, .inc .zeroPageX), (0xFE, .inc .absoluteX)],
     [(0xC6, .dec .zeroPage), (0xCE, .dec .absolute), (0xD6, .dec .zeroPageX), (0xDE, .dec .absoluteX),
      (0xE8, .inx), (0xC8, .iny)],
     [(0xCA, .dex), (0x88, .dey)]] = true := by decide +kernel

/-- The opcodes of the Encoding lines, R113 to R116. -/
theorem test_decode_shift_rotate : decodesAll
    [[(0x06, .asl .zeroPage), (0x0A, .asl .accumulator), (0x0E, .asl .absolute), (0x16, .asl .zeroPageX),
      (0x1E, .asl .absoluteX), (0x46, .lsr .zeroPage)],
     [(0x4A, .lsr .accumulator), (0x4E, .lsr .absolute), (0x56, .lsr .zeroPageX), (0x5E, .lsr .absoluteX),
      (0x26, .rol .zeroPage), (0x2A, .rol .accumulator)],
     [(0x2E, .rol .absolute), (0x36, .rol .zeroPageX), (0x3E, .rol .absoluteX), (0x66, .ror .zeroPage),
      (0x6A, .ror .accumulator), (0x6E, .ror .absolute)],
     [(0x76, .ror .zeroPageX), (0x7E, .ror .absoluteX)]] = true := by decide +kernel

/-- The opcodes of the Encoding lines, R117 to R129. -/
theorem test_decode_control : decodesAll
    [[(0x4C, .jmp .absolute), (0x6C, .jmp .indirect), (0x20, .jsr), (0x60, .rts), (0x90, .bcc), (0xB0, .bcs)],
     [(0xF0, .beq), (0xD0, .bne), (0x30, .bmi), (0x10, .bpl), (0x50, .bvc), (0x70, .bvs)]] = true := by decide +kernel

/-- The opcodes of the Encoding lines, R130 to R143. -/
theorem test_decode_stack_flags_system : decodesAll
    [[(0x48, .pha), (0x08, .php), (0x68, .pla), (0x28, .plp), (0x18, .clc), (0x38, .sec)],
     [(0x58, .cli), (0x78, .sei), (0xD8, .cld), (0xF8, .sed), (0xB8, .clv), (0xEA, .nop)],
     [(0x00, .brk), (0x40, .rti)]] = true := by decide +kernel

/-- The opcodes of the Encoding lines, R145 to R146. -/
theorem test_decode_unofficial : decodesAll
    [[(0x04, .nopU 0x04), (0x0C, .nopU 0x0C), (0x14, .nopU 0x14), (0x1A, .nopU 0x1A), (0x1C, .nopU 0x1C),
      (0x34, .nopU 0x34)],
     [(0x3A, .nopU 0x3A), (0x3C, .nopU 0x3C), (0x44, .nopU 0x44), (0x54, .nopU 0x54), (0x5A, .nopU 0x5A),
      (0x5C, .nopU 0x5C)],
     [(0x64, .nopU 0x64), (0x74, .nopU 0x74), (0x7A, .nopU 0x7A), (0x7C, .nopU 0x7C), (0x80, .nopU 0x80),
      (0xD4, .nopU 0xD4)],
     [(0xDA, .nopU 0xDA), (0xDC, .nopU 0xDC), (0xF4, .nopU 0xF4), (0xFA, .nopU 0xFA), (0xFC, .nopU 0xFC),
      (0xA3, .laxU .indirectX)]] = true := by decide +kernel

/-- The opcodes of the Encoding lines, R146 to R150. -/
theorem test_decode_unofficial_1 : decodesAll
    [[(0xA7, .laxU .zeroPage), (0xAF, .laxU .absolute), (0xB3, .laxU .indirectY), (0xB7, .laxU .zeroPageY),
      (0xBF, .laxU .absoluteY), (0x83, .saxU .indirectX)],
     [(0x87, .saxU .zeroPage), (0x8F, .saxU .absolute), (0x97, .saxU .zeroPageY), (0xEB, .sbcU),
      (0xC3, .dcpU .indirectX), (0xC7, .dcpU .zeroPage)],
     [(0xCF, .dcpU .absolute), (0xD3, .dcpU .indirectY), (0xD7, .dcpU .zeroPageX), (0xDB, .dcpU .absoluteY),
      (0xDF, .dcpU .absoluteX), (0xE3, .iscU .indirectX)],
     [(0xE7, .iscU .zeroPage), (0xEF, .iscU .absolute), (0xF3, .iscU .indirectY), (0xF7, .iscU .zeroPageX),
      (0xFB, .iscU .absoluteY), (0xFF, .iscU .absoluteX)]] = true := by decide +kernel

/-- The opcodes of the Encoding lines, R151 to R154. -/
theorem test_decode_unofficial_2 : decodesAll
    [[(0x03, .sloU .indirectX), (0x07, .sloU .zeroPage), (0x0F, .sloU .absolute), (0x13, .sloU .indirectY),
      (0x17, .sloU .zeroPageX), (0x1B, .sloU .absoluteY)],
     [(0x1F, .sloU .absoluteX), (0x23, .rlaU .indirectX), (0x27, .rlaU .zeroPage), (0x2F, .rlaU .absolute),
      (0x33, .rlaU .indirectY), (0x37, .rlaU .zeroPageX)],
     [(0x3B, .rlaU .absoluteY), (0x3F, .rlaU .absoluteX), (0x43, .sreU .indirectX), (0x47, .sreU .zeroPage),
      (0x4F, .sreU .absolute), (0x53, .sreU .indirectY)],
     [(0x57, .sreU .zeroPageX), (0x5B, .sreU .absoluteY), (0x5F, .sreU .absoluteX), (0x63, .rraU .indirectX),
      (0x67, .rraU .zeroPage), (0x6F, .rraU .absolute)]] = true := by decide +kernel

/-- The opcodes of the Encoding lines, R154 to R155. -/
theorem test_decode_unofficial_3 : decodesAll
    [[(0x73, .rraU .indirectY), (0x77, .rraU .zeroPageX), (0x7B, .rraU .absoluteY), (0x7F, .rraU .absoluteX),
      (0x02, .illegal 0x02), (0x0B, .illegal 0x0B)],
     [(0x12, .illegal 0x12), (0x22, .illegal 0x22), (0x2B, .illegal 0x2B), (0x32, .illegal 0x32),
      (0x42, .illegal 0x42), (0x4B, .illegal 0x4B)],
     [(0x52, .illegal 0x52), (0x62, .illegal 0x62), (0x6B, .illegal 0x6B), (0x72, .illegal 0x72),
      (0x82, .illegal 0x82), (0x89, .illegal 0x89)],
     [(0x8B, .illegal 0x8B), (0x92, .illegal 0x92), (0x93, .illegal 0x93), (0x9B, .illegal 0x9B),
      (0x9C, .illegal 0x9C), (0x9E, .illegal 0x9E)]] = true := by decide +kernel

/-- The opcodes of the Encoding lines, R155 to R155. -/
theorem test_decode_unofficial_4 : decodesAll
    [[(0x9F, .illegal 0x9F), (0xAB, .illegal 0xAB), (0xB2, .illegal 0xB2), (0xBB, .illegal 0xBB),
      (0xC2, .illegal 0xC2), (0xCB, .illegal 0xCB)],
     [(0xD2, .illegal 0xD2), (0xE2, .illegal 0xE2), (0xF2, .illegal 0xF2)]] = true := by decide +kernel
/-- Whole instructions with their operand bytes, written out from 30_encoding.md R53: the low byte of a word first. -/
theorem test_decode_bytes :
    decodeBytes [0x20, 0x10, 0xC0, 0x8D] = .ok (⟨.jsr, .two 0x10 0xC0⟩, [0x8D]) ∧
    decodeBytes [0x7E, 0x00, 0x02] = .ok (⟨.ror .absoluteX, .two 0x00 0x02⟩, []) ∧
    decodeBytes [0x96, 0xFF] = .ok (⟨.stx .zeroPageY, .one 0xFF⟩, []) ∧
    decodeBytes [0xF0, 0x7F] = .ok (⟨.beq, .one 0x7F⟩, []) ∧
    decodeBytes [0x8D, 0x00] = .error (.truncated 0x8D) ∧ decodeBytes [] = .error .noOpcode := by decide

/-- The encoder on terms written from the rules (R53). -/
theorem test_encode :
    encode ⟨.sta .absoluteX, .two 0xF0 0x02⟩ = [0x9D, 0xF0, 0x02] ∧ encode ⟨.bmi, .one 0x10⟩ = [0x30, 0x10] ∧
    encode ⟨.rti, .none⟩ = [0x40] ∧ encode ⟨.lda .immediate, .none⟩ = [] := by decide

/-- Instructions given as numbers: the first byte lowest. -/
theorem test_decodeTableWord :
    decodeTableWord 16 0x80A9 = some (.lda .immediate) ∧ decodeTableWord 24 0x0200BD = some (.lda .absoluteX) ∧
    decodeTableWord 8 0x20 = some .jsr ∧ decodeTableWord 8 0x02 = some (.illegal 0x02) := by decide

/-- Descriptors T30.1 to T30.13. -/
theorem test_descriptors : describesAll
    [⟨0x00, "BRK", 1, 7, false, .implied⟩, ⟨0x20, "JSR", 3, 6, false, .absolute⟩,
     ⟨0x6C, "JMP", 3, 5, false, .indirect⟩, ⟨0xA9, "LDA", 2, 2, false, .immediate⟩,
     ⟨0xBD, "LDA", 3, 4, true, .absoluteX⟩, ⟨0x9D, "STA", 3, 5, false, .absoluteX⟩,
     ⟨0x91, "STA", 2, 6, false, .indirectY⟩, ⟨0xF0, "BEQ", 2, 2, true, .relative⟩,
     ⟨0x80, "*NOP", 2, 2, false, .immediate⟩, ⟨0xB3, "*LAX", 2, 5, true, .indirectY⟩,
     ⟨0xEB, "*SBC", 2, 2, false, .immediate⟩, ⟨0xFF, "*ISC", 3, 7, false, .absoluteX⟩,
     ⟨0x02, "ILLEGAL", 1, 0, false, .illegal⟩] = true := by decide +kernel

/-- Disassembly: E11, and the branch of P1 in 95_test_vectors.md. -/
theorem test_disassemble :
    disassemble 0xC000 ⟨.lda .immediate, .one 0x05⟩ = "LDA #$05" ∧
    disassemble 0xC000 ⟨.lda .absoluteX, .two 0x00 0x02⟩ = "LDA $0200,X" ∧
    disassemble 0xC000 ⟨.lda .indirectX, .one 0x10⟩ = "LDA ($10,X)" ∧
    disassemble 0xC00A ⟨.bne, .one 0xF8⟩ = "BNE $C004" := by decide +kernel

/-! Well-formedness: for every mnemonic with an argument, one argument the table does not have is refused by the check, and
by `exec`. -/

/-- One ill-formed term of each constructor that takes an argument. -/
def illFormedTerms : List Instr :=
  [.lda .accumulator, .ldx .zeroPageX, .ldy .zeroPageY, .sta .immediate, .stx .absoluteY, .sty .absoluteX,
   .adc .zeroPageY, .sbc .indirect, .and .implied, .ora .relative, .eor .illegal, .bit .immediate] ++
  [.cmp .unknown, .cpx .zeroPageX, .cpy .absoluteX, .inc .accumulator, .dec .immediate, .asl .immediate,
   .lsr .absoluteY, .rol .indirectX, .ror .zeroPageY, .jmp .absoluteX, .nopU 0xEA, .laxU .immediate] ++
  [.saxU .indirectY, .dcpU .immediate, .iscU .zeroPageY, .sloU .accumulator, .rlaU .implied, .sreU .relative,
   .rraU .immediate, .illegal 0xA9]

theorem test_ill_formed_refused : illFormedTerms.all (fun i => !i.wf && i.opcode.isNone) = true := by decide

theorem test_ill_formed_exec_refused :
    illFormedTerms.all (fun i =>
      match exec i State.reset with
      | .refused r => decide (r = .illFormed)
      | _ => false) = true := by decide +kernel

/-- An instruction with the wrong number of operand bytes is refused (R53). -/
theorem test_operand_count_refused :
    Encoded.wf ⟨.lda .immediate, .none⟩ = false ∧ Encoded.wf ⟨.tax, .one 0x00⟩ = false ∧
    Encoded.wf ⟨.jmp .absolute, .one 0x00⟩ = false ∧ Encoded.wf ⟨.jmp .absolute, .two 0x00 0xC0⟩ = true := by decide

/-! Memory: T20.1 to T20.19, E2 to E5, E9. -/

/-- The reset state with another bank count and mapper. -/
def withCartridge (banks : Banks) (mapper : Mapper) : State := { State.reset with banks := banks, mapper := mapper }

theorem test_route_one_bank :
    [(0x0000 : Word), 0x07FF, 0x0800, 0x1FFF, 0x2000, 0x2009, 0x3FFF, 0x4000, 0x4017].map State.reset.route =
      [.ok (.ram, 0), .ok (.ram, 0x7FF), .ok (.ram, 0), .ok (.ram, 0x7FF), .ok (.ppu, 0), .ok (.ppu, 1), .ok (.ppu, 7),
       .ok (.io, 0), .ok (.io, 0x17)] ∧
    [(0x4018 : Word), 0x7FFF, 0x8000, 0xBFFF, 0xC000, 0xFFFC, 0xFFFF].map State.reset.route =
      [.error (.unmapped 0x4018), .error (.unmapped 0x7FFF), .error (.mapperMissing 0x8000),
       .error (.mapperMissing 0xBFFF), .ok (.rom, 0), .ok (.rom, 0x3FFC), .ok (.rom, 0x3FFF)] := by decide

theorem test_route_mapper_and_two_banks :
    [(0x8000 : Word), 0xBFFF].map (withCartridge .one .prgMirror).route = [.ok (.mapper, 0), .ok (.mapper, 0x3FFF)] ∧
    [(0x4018 : Word), 0x7FFF, 0x8000, 0xBFFF, 0xC000, 0xFFFC, 0xFFFF].map (withCartridge .two .absent).route =
      [.error (.unmapped 0x4018), .error (.unmapped 0x7FFF), .ok (.rom, 0), .ok (.rom, 0x3FFF), .ok (.rom, 0x4000),
       .ok (.rom, 0x7FFC), .ok (.rom, 0x7FFF)] := by decide

/-- T20.17, T20.18. -/
theorem test_load16 :
    (okParts (busLoad16 0x0010 { State.reset with ram := [(0x10, 0x34), (0x11, 0x12)] })).map Prod.fst = some 0x1234 ∧
    (okParts (busLoad16 0x02FF { State.reset with ram := [(0x200, 0xC1), (0x300, 0xEE)] })).map Prod.fst =
      some 0xC100 := by decide

/-- E5. -/
theorem test_store16 :
    (okParts (busStore16 0x00FF 0x1234 State.reset)).map (fun r => r.2.ram) = some [(0x00, 0x12), (0xFF, 0x34)] ∧
    (okParts (busStore16 0x07FF 0xBEEF State.reset)).map (fun r => r.2.ram) = some [(0x700, 0xBE), (0x7FF, 0xEF)] := by
  decide

/-- E2. -/
theorem test_ram_mirrors :
    [(0x0123 : Word), 0x0923, 0x1123, 0x1923].map
        ((okParts (busStore 0x0123 0x5A State.reset)).map Prod.snd |>.getD State.reset).quietByte? =
      [some 0x5A, some 0x5A, some 0x5A, some 0x5A] := by decide

/-- E3. -/
theorem test_stack_round_trip :
    (okParts ((do pushAll [0x11, 0x22, 0x33, 0x44]; popAll 4) State.reset)).map (fun r => (r.1, r.2.sp, r.2.ram)) =
      some ([0x44, 0x33, 0x22, 0x11], 0xFD, [(0x1FA, 0x44), (0x1FB, 0x33), (0x1FC, 0x22), (0x1FD, 0x11)]) := by decide

/-- E4. -/
theorem test_stack_limits :
    errorParts (push 0x77 (State.reset.setSp 0x00)) = some (.memory (.stackOverflow 0x00), State.reset.setSp 0x00) ∧
    errorParts (pop (State.reset.setSp 0xFF)) = some (.memory (.stackUnderflow 0xFF), State.reset.setSp 0xFF) := by decide

/-- E9. -/
theorem test_biased_bits :
    (((BiasedReg.plain 0x00).bias 3 false).bias 5 true |>.store 0xD9).load = 0xF1 ∧
    ((((BiasedReg.plain 0x00).bias 3 false).bias 5 true |>.store 0xD9).store 0x00).load = 0x20 ∧
    ((((BiasedReg.plain 0x00).bias 3 false).bias 5 true |>.store 0xD9).store 0xFF).load = 0xF7 ∧
    (((BiasedReg.plain 0x00).bias 6 false).store 0xFF).load = 0xBF := by decide

/-! The engine: T40.1 and T40.2. T40.3 to T40.7 are vectors below. -/

theorem test_operand_wrap : passAll
    [{ pc := 0xC0FE, ram := [(0x0234, 0xBB), (0x0334, 0xAA)], rom := [(0x0000, 0x03)], code := [0xAD, 0x34, 0x12],
       tuple := (0xC101, 0xAA, 0x00, 0x00, 0xFD, 0xA4, 4) },
     { pc := 0xC0FE, ram := [(0x0234, 0xBB), (0x0334, 0xAA)], rom := [(0x0000, 0x03)], code := [0xAD, 0x34, 0x12],
       wrap := false, tuple := (0xC101, 0xBB, 0x00, 0x00, 0xFD, 0xA4, 4) }] = true := by decide +kernel

/-- `withFetchWord`: the next step runs the instruction, placed at 0xC000 and, from a PC in no code memory, there. -/
theorem test_withFetchWord :
    (nextState (step (State.reset.withFetchWord 16 0x80A9))).map getRegisters =
      some ⟨0xC002, 0xFD, 0x80, 0x00, 0x00, 0xA4⟩ ∧
    (nextState (step ((State.reset.setPc 0x5000).withFetchWord 24 0xD00020))).map getRegisters =
      some ⟨0xD000, 0xFB, 0x00, 0x00, 0x00, 0x24⟩ := by decide +kernel

/-! 41_load_store_transfer.md: the vectors of 95_test_vectors.md. -/

theorem test_T41_1_to_7 : passAll
    [{ a := 0x55, code := [0xA9, 0x00], tuple := (0xC002, 0x00, 0x00, 0x00, 0xFD, 0x26, 2) },
     { code := [0xA9, 0x80], tuple := (0xC002, 0x80, 0x00, 0x00, 0xFD, 0xA4, 2) },
     { x := 0xFF, ram := [(0x007F, 0x11)], code := [0xB5, 0x80], tuple := (0xC002, 0x11, 0xFF, 0x00, 0xFD, 0x24, 4) },
     { x := 0x20, ram := [(0x0310, 0x42)], code := [0xBD, 0xF0, 0x02],
       tuple := (0xC003, 0x42, 0x20, 0x00, 0xFD, 0x24, 5) },
     { x := 0x20, ram := [(0x0320, 0x42)], code := [0xBD, 0x00, 0x03],
       tuple := (0xC003, 0x42, 0x20, 0x00, 0xFD, 0x24, 4) },
     { y := 0x10, ram := [(0x0040, 0xF8), (0x0041, 0x02), (0x0308, 0x99)], code := [0xB1, 0x40],
       tuple := (0xC002, 0x99, 0x00, 0x10, 0xFD, 0xA4, 6) },
     { x := 0x01, ram := [(0x0000, 0x02), (0x00FF, 0x34), (0x0234, 0x5A)], code := [0xA1, 0xFE],
       tuple := (0xC002, 0x5A, 0x01, 0x00, 0xFD, 0x24, 6) }] = true := by decide +kernel

theorem test_T41_8_to_14 : passAll
    [{ ram := [(0x0005, 0x66)], code := [0xAD, 0x05, 0x18], tuple := (0xC003, 0x66, 0x00, 0x00, 0xFD, 0x24, 4) },
     { code := [0xAD, 0x00, 0x50], tuple := (0xC003, 0x00, 0x00, 0x00, 0xFD, 0x24, 4),
       stop := some (.memory (.unmapped 0x5000)) },
     { code := [0xAD, 0x00, 0x90], tuple := (0xC003, 0x00, 0x00, 0x00, 0xFD, 0x24, 4),
       stop := some (.memory (.mapperMissing 0x9000)) },
     { y := 0xF5, ram := [(0x0005, 0xFF)], code := [0xB6, 0x10], tuple := (0xC002, 0x00, 0xFF, 0xF5, 0xFD, 0xA4, 4) },
     { y := 0x80, ram := [(0x0300, 0x01)], code := [0xBE, 0x80, 0x02],
       tuple := (0xC003, 0x00, 0x01, 0x80, 0xFD, 0x24, 5) },
     { x := 0x01, code := [0xBC, 0xFF, 0x00], tuple := (0xC003, 0x00, 0x01, 0x00, 0xFD, 0x26, 5) },
     { a := 0x77, x := 0x20, code := [0x9D, 0xF0, 0x02], tuple := (0xC003, 0x77, 0x20, 0x00, 0xFD, 0x24, 5),
       stored := [(0x0310, 0x77)] }] = true := by decide +kernel

theorem test_T41_15_to_21 : passAll
    [{ a := 0x77, y := 0x10, ram := [(0x0040, 0xF8), (0x0041, 0x02)], code := [0x91, 0x40],
       tuple := (0xC002, 0x77, 0x00, 0x10, 0xFD, 0x24, 6), stored := [(0x0308, 0x77)] },
     { a := 0x01, code := [0x8D, 0x00, 0xC0], tuple := (0xC003, 0x01, 0x00, 0x00, 0xFD, 0x24, 4),
       stop := some (.memory (.readOnly 0xC000)) },
     { a := 0x01, code := [0x8D, 0x00, 0x80], tuple := (0xC003, 0x01, 0x00, 0x00, 0xFD, 0x24, 4),
       stop := some (.memory (.mapperMissing 0x8000)) },
     { x := 0xAB, y := 0x02, code := [0x96, 0xFF], tuple := (0xC002, 0x00, 0xAB, 0x02, 0xFD, 0x24, 4),
       stored := [(0x0001, 0xAB)] },
     { x := 0x01, y := 0xCD, code := [0x94, 0x10], tuple := (0xC002, 0x00, 0x01, 0xCD, 0xFD, 0x24, 4),
       stored := [(0x0011, 0xCD)] },
     { a := 0x00, x := 0x12, code := [0xAA], tuple := (0xC001, 0x00, 0x00, 0x00, 0xFD, 0x26, 2) },
     { a := 0x90, code := [0xA8], tuple := (0xC001, 0x90, 0x00, 0x90, 0xFD, 0xA4, 2) }] = true := by decide +kernel

theorem test_T41_22_to_25 : passAll
    [{ a := 0x00, x := 0x7F, code := [0x8A], tuple := (0xC001, 0x7F, 0x7F, 0x00, 0xFD, 0x24, 2) },
     { a := 0x01, y := 0x00, code := [0x98], tuple := (0xC001, 0x00, 0x00, 0x00, 0xFD, 0x26, 2) },
     { code := [0xBA], tuple := (0xC001, 0x00, 0xFD, 0x00, 0xFD, 0xA4, 2) },
     { x := 0x00, p := 0xA4, code := [0x9A], tuple := (0xC001, 0x00, 0x00, 0x00, 0x00, 0xA4, 2) }] = true := by decide +kernel

/-! 42_arith_logic.md: the vectors of 95_test_vectors.md. -/

theorem test_T42_1_to_7 : passAll
    [{ a := 0x50, code := [0x69, 0x50], tuple := (0xC002, 0xA0, 0x00, 0x00, 0xFD, 0xE4, 2) },
     { a := 0xFF, code := [0x69, 0x01], tuple := (0xC002, 0x00, 0x00, 0x00, 0xFD, 0x27, 2) },
     { a := 0x7F, p := 0x25, code := [0x69, 0x00], tuple := (0xC002, 0x80, 0x00, 0x00, 0xFD, 0xE4, 2) },
     { a := 0x90, code := [0x69, 0x90], tuple := (0xC002, 0x20, 0x00, 0x00, 0xFD, 0x65, 2) },
     { a := 0x19, p := 0x2C, code := [0x69, 0x15], tuple := (0xC002, 0x2E, 0x00, 0x00, 0xFD, 0x2C, 2) },
     { a := 0x00, p := 0x25, code := [0xE9, 0x01], tuple := (0xC002, 0xFF, 0x00, 0x00, 0xFD, 0xA4, 2) },
     { a := 0x00, p := 0x24, code := [0xE9, 0x01], tuple := (0xC002, 0xFE, 0x00, 0x00, 0xFD, 0xA4, 2) }] = true := by decide +kernel

theorem test_T42_8_to_14 : passAll
    [{ a := 0x80, p := 0x25, code := [0xE9, 0x01], tuple := (0xC002, 0x7F, 0x00, 0x00, 0xFD, 0x65, 2) },
     { a := 0x50, p := 0x25, code := [0xE9, 0x30], tuple := (0xC002, 0x20, 0x00, 0x00, 0xFD, 0x25, 2) },
     { a := 0xF0, code := [0x29, 0x0F], tuple := (0xC002, 0x00, 0x00, 0x00, 0xFD, 0x26, 2) },
     { a := 0x01, code := [0x09, 0x80], tuple := (0xC002, 0x81, 0x00, 0x00, 0xFD, 0xA4, 2) },
     { a := 0xFF, code := [0x49, 0xFF], tuple := (0xC002, 0x00, 0x00, 0x00, 0xFD, 0x26, 2) },
     { a := 0x01, ram := [(0x0010, 0xC0)], code := [0x24, 0x10], tuple := (0xC002, 0x01, 0x00, 0x00, 0xFD, 0xE6, 3) },
     { a := 0x01, p := 0xE4, ram := [(0x0200, 0x01)], code := [0x2C, 0x00, 0x02],
       tuple := (0xC003, 0x01, 0x00, 0x00, 0xFD, 0x24, 4) }] = true := by decide +kernel

theorem test_T42_15_to_21 : passAll
    [{ a := 0x20, code := [0xC9, 0x10], tuple := (0xC002, 0x20, 0x00, 0x00, 0xFD, 0x25, 2) },
     { a := 0x10, code := [0xC9, 0x20], tuple := (0xC002, 0x10, 0x00, 0x00, 0xFD, 0xA4, 2) },
     { a := 0x80, code := [0xC9, 0x01], tuple := (0xC002, 0x80, 0x00, 0x00, 0xFD, 0x25, 2) },
     { x := 0x05, code := [0xE0, 0x05], tuple := (0xC002, 0x00, 0x05, 0x00, 0xFD, 0x27, 2) },
     { y := 0x00, code := [0xC0, 0xFF], tuple := (0xC002, 0x00, 0x00, 0x00, 0xFD, 0x24, 2) },
     { ram := [(0x0010, 0xFF)], code := [0xE6, 0x10], tuple := (0xC002, 0x00, 0x00, 0x00, 0xFD, 0x26, 5),
       stored := [(0x0010, 0x00)] },
     { x := 0x01, ram := [(0x0300, 0x7F)], code := [0xFE, 0xFF, 0x02],
       tuple := (0xC003, 0x00, 0x01, 0x00, 0xFD, 0xA4, 7), stored := [(0x0300, 0x80)] }] = true := by decide +kernel

theorem test_T42_22_to_27 : passAll
    [{ code := [0xC6, 0x10], tuple := (0xC002, 0x00, 0x00, 0x00, 0xFD, 0xA4, 5), stored := [(0x0010, 0xFF)] },
     { code := [0xCE, 0x00, 0xC0], tuple := (0xC003, 0x00, 0x00, 0x00, 0xFD, 0xA4, 6),
       stop := some (.memory (.readOnly 0xC000)) },
     { x := 0xFF, code := [0xE8], tuple := (0xC001, 0x00, 0x00, 0x00, 0xFD, 0x26, 2) },
     { y := 0x7F, code := [0xC8], tuple := (0xC001, 0x00, 0x00, 0x80, 0xFD, 0xA4, 2) },
     { x := 0x00, code := [0xCA], tuple := (0xC001, 0x00, 0xFF, 0x00, 0xFD, 0xA4, 2) },
     { y := 0x01, code := [0x88], tuple := (0xC001, 0x00, 0x00, 0x00, 0xFD, 0x26, 2) }] = true := by decide +kernel

/-! 43_shift_rotate.md: the vectors of 95_test_vectors.md. -/

theorem test_T43_1_to_8 : passAll
    [{ a := 0x80, code := [0x0A], tuple := (0xC001, 0x00, 0x00, 0x00, 0xFD, 0x27, 2) },
     { ram := [(0x0010, 0x41)], code := [0x06, 0x10], tuple := (0xC002, 0x00, 0x00, 0x00, 0xFD, 0xA4, 5),
       stored := [(0x0010, 0x82)] },
     { a := 0x01, code := [0x4A], tuple := (0xC001, 0x00, 0x00, 0x00, 0xFD, 0x27, 2) },
     { p := 0xA4, ram := [(0x0200, 0x02)], code := [0x4E, 0x00, 0x02],
       tuple := (0xC003, 0x00, 0x00, 0x00, 0xFD, 0x24, 6), stored := [(0x0200, 0x01)] },
     { a := 0x80, p := 0x25, code := [0x2A], tuple := (0xC001, 0x01, 0x00, 0x00, 0xFD, 0x25, 2) },
     { x := 0x01, ram := [(0x0010, 0x40)], code := [0x36, 0x0F],
       tuple := (0xC002, 0x00, 0x01, 0x00, 0xFD, 0xA4, 6), stored := [(0x0010, 0x80)] },
     { a := 0x01, p := 0x25, code := [0x6A], tuple := (0xC001, 0x80, 0x00, 0x00, 0xFD, 0xA5, 2) },
     { x := 0x05, ram := [(0x0205, 0x01)], code := [0x7E, 0x00, 0x02],
       tuple := (0xC003, 0x00, 0x05, 0x00, 0xFD, 0x27, 7), stored := [(0x0205, 0x00)] }] = true := by decide +kernel

/-! 44_control.md: the vectors of 95_test_vectors.md. -/

theorem test_T44_1_to_7 : passAll
    [{ code := [0x4C, 0x34, 0x12], tuple := (0x1234, 0x00, 0x00, 0x00, 0xFD, 0x24, 3) },
     { ram := [(0x0200, 0xC1), (0x0300, 0xEE)], code := [0x6C, 0xFF, 0x02],
       tuple := (0xC100, 0x00, 0x00, 0x00, 0xFD, 0x24, 5) },
     { ram := [(0x0011, 0xD0)], code := [0x6C, 0x10, 0x00], tuple := (0xD000, 0x00, 0x00, 0x00, 0xFD, 0x24, 5) },
     { code := [0x20, 0x00, 0xD0], tuple := (0xD000, 0x00, 0x00, 0x00, 0xFB, 0x24, 6),
       stored := [(0x01FC, 0x02), (0x01FD, 0xC0)] },
     { sp := 0x00, code := [0x20, 0x00, 0xD0], tuple := (0xC003, 0x00, 0x00, 0x00, 0x00, 0x24, 6),
       stop := some (.memory (.stackOverflow 0x00)) },
     { sp := 0x01, code := [0x20, 0x00, 0xD0], tuple := (0xC003, 0x00, 0x00, 0x00, 0x00, 0x24, 6),
       stored := [(0x0101, 0xC0)], stop := some (.memory (.stackOverflow 0x00)) },
     { sp := 0xFB, ram := [(0x01FC, 0x02), (0x01FD, 0xC0)], code := [0x60],
       tuple := (0xC003, 0x00, 0x00, 0x00, 0xFD, 0x24, 6) }] = true := by decide +kernel

theorem test_T44_8_to_14 : passAll
    [{ sp := 0xFE, ram := [(0x01FF, 0x10)], code := [0x60], tuple := (0xC001, 0x00, 0x00, 0x00, 0xFF, 0x24, 6),
       stop := some (.memory (.stackUnderflow 0xFF)) },
     { p := 0x24, code := [0xD0, 0x03], tuple := (0xC005, 0x00, 0x00, 0x00, 0xFD, 0x24, 3) },
     { p := 0x26, code := [0xD0, 0x03], tuple := (0xC002, 0x00, 0x00, 0x00, 0xFD, 0x26, 2) },
     { pc := 0xC100, p := 0x24, code := [0xD0, 0xFB], tuple := (0xC0FD, 0x00, 0x00, 0x00, 0xFD, 0x24, 4) },
     { pc := 0xC080, p := 0x26, code := [0xF0, 0x7F], tuple := (0xC101, 0x00, 0x00, 0x00, 0xFD, 0x26, 4) },
     { p := 0x24, code := [0x90, 0xFE], tuple := (0xC000, 0x00, 0x00, 0x00, 0xFD, 0x24, 3) },
     { p := 0x25, code := [0xB0, 0x10], tuple := (0xC012, 0x00, 0x00, 0x00, 0xFD, 0x25, 3) }] = true := by decide +kernel

theorem test_T44_15_to_19 : passAll
    [{ p := 0x24, code := [0x30, 0x10], tuple := (0xC002, 0x00, 0x00, 0x00, 0xFD, 0x24, 2) },
     { p := 0x24, code := [0x10, 0x10], tuple := (0xC012, 0x00, 0x00, 0x00, 0xFD, 0x24, 3) },
     { p := 0x64, code := [0x50, 0x10], tuple := (0xC002, 0x00, 0x00, 0x00, 0xFD, 0x64, 2) },
     { pc := 0xC0F0, p := 0x64, code := [0x70, 0x80], tuple := (0xC072, 0x00, 0x00, 0x00, 0xFD, 0x64, 3) },
     { pc := 0xFFFC, p := 0x24, code := [0x10, 0x02], tuple := (0x0000, 0x00, 0x00, 0x00, 0xFD, 0x24, 4) }] = true := by decide +kernel

/-! 45_stack_flags_system.md: the vectors of 95_test_vectors.md. -/

theorem test_T45_1_to_7 : passAll
    [{ a := 0x99, code := [0x48], tuple := (0xC001, 0x99, 0x00, 0x00, 0xFC, 0x24, 3), stored := [(0x01FD, 0x99)] },
     { a := 0x99, sp := 0x00, code := [0x48], tuple := (0xC001, 0x99, 0x00, 0x00, 0x00, 0x24, 3),
       stop := some (.memory (.stackOverflow 0x00)) },
     { code := [0x08], tuple := (0xC001, 0x00, 0x00, 0x00, 0xFC, 0x24, 3), stored := [(0x01FD, 0x34)] },
     { p := 0xE7, code := [0x08], tuple := (0xC001, 0x00, 0x00, 0x00, 0xFC, 0xE7, 3), stored := [(0x01FD, 0xF7)] },
     { sp := 0xFC, code := [0x68], tuple := (0xC001, 0x00, 0x00, 0x00, 0xFD, 0x26, 4) },
     { sp := 0xFF, code := [0x68], tuple := (0xC001, 0x00, 0x00, 0x00, 0xFF, 0x24, 4),
       stop := some (.memory (.stackUnderflow 0xFF)) },
     { sp := 0xFC, ram := [(0x01FD, 0xFF)], code := [0x28], tuple := (0xC001, 0x00, 0x00, 0x00, 0xFD, 0xEF, 4) }] = true := by decide +kernel

theorem test_T45_8_to_14 : passAll
    [{ sp := 0xFC, code := [0x28], tuple := (0xC001, 0x00, 0x00, 0x00, 0xFD, 0x20, 4) },
     { p := 0x25, code := [0x18], tuple := (0xC001, 0x00, 0x00, 0x00, 0xFD, 0x24, 2) },
     { code := [0x38], tuple := (0xC001, 0x00, 0x00, 0x00, 0xFD, 0x25, 2) },
     { code := [0x58], tuple := (0xC001, 0x00, 0x00, 0x00, 0xFD, 0x20, 2) },
     { p := 0x20, code := [0x78], tuple := (0xC001, 0x00, 0x00, 0x00, 0xFD, 0x24, 2) },
     { p := 0x2C, code := [0xD8], tuple := (0xC001, 0x00, 0x00, 0x00, 0xFD, 0x24, 2) },
     { code := [0xF8], tuple := (0xC001, 0x00, 0x00, 0x00, 0xFD, 0x2C, 2) }] = true := by decide +kernel

theorem test_T45_15_to_20 : passAll
    [{ p := 0x64, code := [0xB8], tuple := (0xC001, 0x00, 0x00, 0x00, 0xFD, 0x24, 2) },
     { code := [0xEA], tuple := (0xC001, 0x00, 0x00, 0x00, 0xFD, 0x24, 2) },
     { rom := [(0x3FFF, 0xC1)], code := [0x00, 0xFF], tuple := (0xC100, 0x00, 0x00, 0x00, 0xFA, 0x24, 7),
       stored := [(0x01FB, 0x34), (0x01FC, 0x02), (0x01FD, 0xC0)] },
     { p := 0xA1, rom := [(0x3FFF, 0xC1)], code := [0x00], tuple := (0xC100, 0x00, 0x00, 0x00, 0xFA, 0xA5, 7),
       stored := [(0x01FB, 0xB1), (0x01FC, 0x02), (0x01FD, 0xC0)] },
     { sp := 0xFA, ram := [(0x01FB, 0xFF), (0x01FC, 0x34), (0x01FD, 0x12)], code := [0x40],
       tuple := (0x1234, 0x00, 0x00, 0x00, 0xFD, 0xEF, 6) },
     { sp := 0xFD, p := 0x20, ram := [(0x01FE, 0xC3), (0x01FF, 0x80)], code := [0x40],
       tuple := (0xC001, 0x00, 0x00, 0x00, 0xFF, 0xE3, 6), stop := some (.memory (.stackUnderflow 0xFF)) }] = true := by decide +kernel

/-! 46_unofficial.md: the vectors of 95_test_vectors.md. -/

theorem test_T46_1_to_7 : passAll
    [{ code := [0x1A], tuple := (0xC001, 0x00, 0x00, 0x00, 0xFD, 0x24, 2) },
     { code := [0x80, 0x55], tuple := (0xC002, 0x00, 0x00, 0x00, 0xFD, 0x24, 2) },
     { code := [0x04, 0x10], tuple := (0xC002, 0x00, 0x00, 0x00, 0xFD, 0x24, 3) },
     { x := 0x20, code := [0x1C, 0xF0, 0x02], tuple := (0xC003, 0x00, 0x20, 0x00, 0xFD, 0x24, 5) },
     { code := [0x0C, 0x00, 0x50], tuple := (0xC003, 0x00, 0x00, 0x00, 0xFD, 0x24, 4),
       stop := some (.memory (.unmapped 0x5000)) },
     { ram := [(0x0010, 0x80)], code := [0xA7, 0x10], tuple := (0xC002, 0x80, 0x80, 0x00, 0xFD, 0xA4, 3) },
     { y := 0x20, code := [0xBF, 0xF0, 0x02], tuple := (0xC003, 0x00, 0x00, 0x20, 0xFD, 0x26, 5) }] = true := by decide +kernel

theorem test_T46_8_to_14 : passAll
    [{ y := 0x10, ram := [(0x0040, 0xF8), (0x0041, 0x02), (0x0308, 0x01)], code := [0xB3, 0x40],
       tuple := (0xC002, 0x01, 0x01, 0x10, 0xFD, 0x24, 6) },
     { a := 0xF0, x := 0x3C, code := [0x87, 0x10], tuple := (0xC002, 0xF0, 0x3C, 0x00, 0xFD, 0x24, 3),
       stored := [(0x0010, 0x30)] },
     { a := 0xFF, x := 0x0F, y := 0x02, code := [0x97, 0xFF],
       tuple := (0xC002, 0xFF, 0x0F, 0x02, 0xFD, 0x24, 4), stored := [(0x0001, 0x0F)] },
     { a := 0x05, p := 0x25, code := [0xEB, 0x03], tuple := (0xC002, 0x02, 0x00, 0x00, 0xFD, 0x25, 2) },
     { a := 0x42, ram := [(0x0010, 0x43)], code := [0xC7, 0x10],
       tuple := (0xC002, 0x42, 0x00, 0x00, 0xFD, 0x27, 5), stored := [(0x0010, 0x42)] },
     { a := 0x00, y := 0x10, ram := [(0x0040, 0xF8), (0x0041, 0x02)], code := [0xD3, 0x40],
       tuple := (0xC002, 0x00, 0x00, 0x10, 0xFD, 0x24, 8), stored := [(0x0308, 0xFF)] },
     { a := 0x20, p := 0x25, ram := [(0x0010, 0x0F)], code := [0xE7, 0x10],
       tuple := (0xC002, 0x10, 0x00, 0x00, 0xFD, 0x25, 5), stored := [(0x0010, 0x10)] }] = true := by decide +kernel

theorem test_T46_15_to_21 : passAll
    [{ a := 0x01, ram := [(0x0010, 0x81)], code := [0x07, 0x10],
       tuple := (0xC002, 0x03, 0x00, 0x00, 0xFD, 0x25, 5), stored := [(0x0010, 0x02)] },
     { a := 0xFF, p := 0x25, ram := [(0x0010, 0x80)], code := [0x27, 0x10],
       tuple := (0xC002, 0x01, 0x00, 0x00, 0xFD, 0x25, 5), stored := [(0x0010, 0x01)] },
     { a := 0x01, ram := [(0x0010, 0x03)], code := [0x47, 0x10],
       tuple := (0xC002, 0x00, 0x00, 0x00, 0xFD, 0x27, 5), stored := [(0x0010, 0x01)] },
     { a := 0x10, p := 0x25, ram := [(0x0010, 0x02)], code := [0x67, 0x10],
       tuple := (0xC002, 0x91, 0x00, 0x00, 0xFD, 0xA4, 5), stored := [(0x0010, 0x81)] },
     { code := [0xCF, 0x00, 0xC0], tuple := (0xC003, 0x00, 0x00, 0x00, 0xFD, 0xA4, 6),
       stop := some (.memory (.readOnly 0xC000)) },
     { code := [0x02], tuple := (0xC001, 0x00, 0x00, 0x00, 0xFD, 0x24, 0),
       stop := some (.illegal (.noHandler 0x02)) },
     { code := [0x8B, 0x00], tuple := (0xC001, 0x00, 0x00, 0x00, 0xFD, 0x24, 0),
       stop := some (.illegal (.noHandler 0x8B)) }] = true := by decide +kernel

/-! Interrupts and reset: T60.1 to T60.5, T70.1, T70.2. -/

/-- The start of the T60 vectors: 0xFFFE holds 0xC200 and 0xFFFA holds 0xC300, and RTI stands at 0xC300. -/
def interruptStart (sp p : Byte) : State :=
  { State.reset with pc := 0xC123, sp := sp, p := p, prg := [(0x300, 0x40), (0x3FFB, 0xC3), (0x3FFF, 0xC2)] }

/-- T60.1, T60.2. -/
theorem test_irq :
    okParts (irq (interruptStart 0xFD 0xA0)) =
      some ((), { interruptStart 0xFA 0xA4 with
        pc := 0xC200, cyc := 7, ram := [(0x1FB, 0xA0), (0x1FC, 0x23), (0x1FD, 0xC1)] }) ∧
    okParts (irq (interruptStart 0xFD 0x24)) = some ((), interruptStart 0xFD 0x24) := by decide

/-- T60.3. -/
theorem test_nmi :
    okParts (nmi (interruptStart 0xFD 0x24)) =
      some ((), { interruptStart 0xFA 0x24 with
        pc := 0xC300, cyc := 7, ram := [(0x1FB, 0x24), (0x1FC, 0x23), (0x1FD, 0xC1)] }) := by decide

/-- T60.4. -/
theorem test_irq_stack_overflow :
    errorParts (irq (interruptStart 0x01 0x20)) =
      some (.memory (.stackOverflow 0x00), { interruptStart 0x00 0x20 with ram := [(0x101, 0xC1)] }) := by decide

/-- T60.5. -/
theorem test_nmi_then_rti :
    ((okParts (nmi (interruptStart 0xFD 0xA0))).bind fun r => nextState (step r.2)).map getRegisters =
      some ⟨0xC123, 0xFD, 0x00, 0x00, 0x00, 0xA0⟩ := by decide +kernel

/-- The order of what is raised between two steps: NMI before IRQ, which it masks (60_exceptions.md R165). -/
theorem test_boundary :
    (okParts (boundary false true true (interruptStart 0xFD 0xA0))).map (fun r => (r.2.pc, r.2.sp)) =
      some (0xC300, 0xFA) ∧
    (okParts (boundary true false true (interruptStart 0xFD 0xA0))).map (fun r => (r.2.pc, r.2.sp)) =
      some (0xC000, 0xFD) := by decide

/-- T70.1. -/
theorem test_reset :
    hostReset { State.reset with
        pc := 0x1234, a := 0x55, x := 0x66, y := 0x77, sp := 0x10, p := 0xE7, cyc := 99, ram := [(0x10, 0xAB)],
        prg := [(0x3FFD, 0x80)] } =
      { State.reset with ram := [(0x10, 0xAB)], prg := [(0x3FFD, 0x80)] } := by decide

/-- Launch inputs with a bank count and a PRG of a length (70_reset_and_hazards.md R175). -/
def launchOf (prg : List Byte) (banks : Nat) : Launch where
  prg := prg
  prgBanks := banks
  mapper := .absent
  ppu := .external []
  io := .external []
  ramInit := Vector.replicate _ 0x00
  cycReset := 0
  intCycles := 7
  operandWrap := true

/-- T70.2. -/
theorem test_construction_refused :
    powerOn (launchOf [] 3) = .error .bankCount ∧ powerOn (launchOf [] 1) = .error .prgLength := by
  constructor <;> rfl

/-! Runs and their trace (part 3 of 95_test_vectors.md), over their last or first actions. -/

/-- P5 before its fourth step: the first PHA has a tuple, and so has the second, which faults. -/
def overflowStart : State :=
  { State.reset with pc := 0xC005, a := 0x5A, x := 0x01, sp := 0x01, cyc := 6, prg := [(5, 0x48), (6, 0x48)] }

theorem test_P5_trace :
    runTrace [.step, .step, .step] overflowStart =
      [⟨0xC006, 0x5A, 0x01, 0x00, 0x00, 0x24, 9⟩, ⟨0xC007, 0x5A, 0x01, 0x00, 0x00, 0x24, 12⟩] ∧
    faultParts (runActions [.step, .step, .step] overflowStart) =
      some (.memory (.stackOverflow 0x00),
        { overflowStart with pc := 0xC007, sp := 0x00, cyc := 12, ram := [(0x101, 0x5A)] }) := by decide +kernel

/-- P4's first two lines: irq() is a no-op, CLI a step; R81's trace has the step alone. -/
theorem test_P4_record :
    (recordRun [.irq, .step, .getCycles] { State.reset with prg := [(0, 0x58)] }).lines =
      [⟨.irq, some .nothing, ⟨0xC000, 0x00, 0x00, 0x00, 0xFD, 0x24, 0⟩⟩,
       ⟨.step, some (.executed (some ⟨0x58, "CLI", 1, 2, false, .implied⟩)), ⟨0xC001, 0x00, 0x00, 0x00, 0xFD, 0x20, 2⟩⟩,
       ⟨.getCycles, some (.cycles 2), ⟨0xC001, 0x00, 0x00, 0x00, 0xFD, 0x20, 2⟩⟩] ∧
    runTrace [.irq, .step, .getCycles] { State.reset with prg := [(0, 0x58)] } =
      [⟨0xC001, 0x00, 0x00, 0x00, 0xFD, 0x20, 2⟩] := by decide +kernel

/-! Witnesses: for every statement with hypotheses, states and operands that meet them, each clause at a bound of its range.
A name ends in the name of its statement. -/

/-- The reset state with bytes in ROM from 0xC000 on. -/
def codeState (code : List Byte) : State := { State.reset with prg := Memory.ofBytes code 0 }

/-- The code state with RAM bytes. -/
def dataState (code : List Byte) (ram : Memory) : State := { codeState code with ram := ram }

/-- The reset state with both register blocks made of biased registers. -/
def registerState : State :=
  { State.reset with
    ppu := .registers (List.replicate Config.ppuRegs (BiasedReg.plain 0x40))
    io := .registers (List.replicate Config.ioRegs (BiasedReg.plain 0x40)) }

/-- Whether an instruction completes. -/
def completes (i : Instr) (s : State) : Bool := (nextState (exec i s)).isSome

/-- Whether an action of the host completes. -/
def actionCompletes (act : HostAction) (s : State) : Bool :=
  match act.run s with
  | .next _ => true
  | _ => false

/-- Whether a computation faults. -/
def faults {α : Type} (c : M α) (s : State) : Bool := (errorParts (c s)).isSome

/-- Whether an instruction has a descriptor that a check accepts. -/
def withDescriptor (i : Instr) (check : Descriptor → Bool) : Bool := i.descriptor.any check

/-- The first clause of `ReadsThen`: the operand is read with no side effect. -/
def readsQuietly (i : Instr) (s : State) : Bool :=
  withDescriptor i fun d => ((s.advance d).effective? d).any fun r => ((s.advance d).quietOperand? d r).isSome

/-- The clause of a fault in the resolver. -/
def resolverFaults (i : Instr) (s : State) : Bool := withDescriptor i fun d => faults (resolve d) (s.advance d)

/-- The clauses of a data read after the resolver: whether it faults. -/
def readAfterResolve (i : Instr) (s : State) : Option Bool :=
  i.descriptor.bind fun d => (okParts (resolve d (s.advance d))).map fun r => faults (busLoad r.1) r.2

/-- The clauses of a store after the resolver: whether it faults. -/
def storeAfterResolve (i : Instr) (v : State → Byte) (s : State) : Option Bool :=
  i.descriptor.bind fun d => (okParts (resolve d (s.advance d))).map fun r => faults (busStore r.1 (v s)) r.2

/-- The first clause of `StoresByte`. -/
def storesQuietly (i : Instr) (v : State → Byte) (s : State) : Bool :=
  withDescriptor i fun d => ((s.advance d).effective? d).any fun r => ((s.resolved d r).quietStore? r (v s)).isSome

/-- The quiet memory clause of `ModifiesByte`. -/
def modifiesQuietly (i : Instr) (f : Byte → State → Byte × State) (s : State) : Bool :=
  withDescriptor i fun d => ((s.advance d).effective? d).any fun r => ((s.advance d).quietByte? r).any fun v =>
    ((f v (s.resolved d r)).2.quietStore? r (f v (s.resolved d r)).1).isSome

/-- The clauses of a store after the read of `ModifiesByte`: whether it faults. -/
def storeAfterRead (i : Instr) (f : Byte → State → Byte × State) (s : State) : Option Bool :=
  i.descriptor.bind fun d => (okParts (resolve d (s.advance d))).bind fun r =>
    (okParts (busLoad r.1 r.2)).map fun l => faults (busStore r.1 (f l.1 l.2).1) (f l.1 l.2).2

/-- The quiet clause of `CompositeOf`. -/
def compositeQuietly (i : Instr) (f : Byte → State → Byte × State) (s : State) : Bool :=
  withDescriptor i fun d => ((s.advance d).effective? d).any fun r => ((s.advance d).quietByte? r).any fun v =>
    ((f v (s.advance d)).2.quietStore? r (f v (s.advance d)).1).any fun t =>
      (t.effective? d).any fun q => (t.quietByte? q).isSome

/-- The second part of a composite, after a first part that ends well: whether it faults. -/
def secondPart (i : Instr) (f : Byte → State → Byte × State) (s : State) : Option Bool :=
  i.descriptor.bind fun d => (okParts (modifyOperand d f (s.advance d))).map fun r => faults (readOperand d) r.2

/-- Code whose two operand bytes are the address 0x0010, and code whose operand is the unmapped 0x5000. -/
def ramOperand : State := codeState [0xEA, 0x10, 0x00]
def unmappedOperand : State := codeState [0xEA, 0x00, 0x50]

/-- No operand byte can be read at all. -/
def noOperand : State := State.reset.setPc 0x5000

/-- Every clause of `ReadsThen` for instructions in a memory mode. -/
def readsWitness (is : List Instr) : Bool :=
  is.all fun i => readsQuietly i ramOperand && resolverFaults i noOperand &&
    readAfterResolve i ramOperand == some false && readAfterResolve i unmappedOperand == some true

/-- The value clause of `ReadsThen` for instructions in Immediate mode. -/
def immediateWitness (is : List Instr) : Bool :=
  is.all fun i => readsQuietly i ramOperand && withDescriptor i (fun d => modeIsValue d.mode) && resolverFaults i noOperand

/-- Every clause of `StoresByte`; 0xC000 is ROM. -/
def storesWitness (is : List (Instr × (State → Byte))) : Bool :=
  is.all fun i => storesQuietly i.1 i.2 ramOperand && resolverFaults i.1 noOperand &&
    storeAfterResolve i.1 i.2 ramOperand == some false &&
    storeAfterResolve i.1 i.2 (codeState [0xEA, 0x00, 0xC0]) == some true

/-- Every clause of `ModifiesByte` in a memory mode; 0xC000 is ROM. -/
def modifiesWitness (is : List (Instr × (Byte → State → Byte × State))) : Bool :=
  is.all fun i => modifiesQuietly i.1 i.2 ramOperand && resolverFaults i.1 noOperand &&
    readAfterResolve i.1 unmappedOperand == some true && storeAfterRead i.1 i.2 ramOperand == some false &&
    storeAfterRead i.1 i.2 (codeState [0xEA, 0x00, 0xC0]) == some true

theorem test_witness_DescriptorLengthIsItsFormats :
    (lookup 0xEA).mode ∈ [Mode.implied, .accumulator, .illegal] ∧
    (lookup 0xF0).mode ∈ [Mode.immediate, .zeroPage, .zeroPageX, .zeroPageY, .indirectX, .indirectY, .relative] ∧
    (lookup 0x6C).mode ∈ [Mode.absolute, .absoluteX, .absoluteY, .indirect] := by decide

theorem test_witness_IllegalOpcodesFault :
    decode 0x02 = .illegal 0x02 ∧ decode 0xF2 = .illegal 0xF2 ∧
    (codeState [0xF2]).quietByte? (codeState [0xF2]).pc = some 0xF2 := by decide

theorem test_witness_DecodeInvertsEncode :
    Encoded.wf ⟨.tax, .none⟩ = true ∧ Encoded.wf ⟨.illegal 0xF2, .none⟩ = true ∧
    Encoded.wf ⟨.nopU 0x80, .one 0xFF⟩ = true ∧ Encoded.wf ⟨.jmp .indirect, .two 0xFF 0xFF⟩ = true := by decide

theorem test_witness_EncodeInvertsDecode :
    decodeBytes [0x80, 0xFF] = .ok (⟨.nopU 0x80, .one 0xFF⟩, []) ∧
    decodeBytes [0x6C, 0xFF, 0xFF, 0x00] = .ok (⟨.jmp .indirect, .two 0xFF 0xFF⟩, [0x00]) := by decide

theorem test_witness_DecodeRefusesOnlyShortLists :
    (([0x00] : List Byte).length + 1 < (lookup 0x6C).length) ∧ (([] : List Byte).length + 1 < (lookup 0xA9).length) ∧
    (lookup 0x6C).length ≤ ([0x00, 0xC0] : List Byte).length + 1 ∧
    (lookup 0xEA).length ≤ ([] : List Byte).length + 1 := by decide

theorem test_witness_RouterFollowsTheTable :
    (0x1FFF : Word).toNat ≤ 0x1FFF ∧ (0x2000 ≤ (0x2000 : Word).toNat ∧ (0x3FFF : Word).toNat ≤ 0x3FFF) ∧
    (0x4000 ≤ (0x4000 : Word).toNat ∧ (0x4017 : Word).toNat ≤ 0x4017) ∧
    (0x4018 ≤ (0x4018 : Word).toNat ∧ (0x7FFF : Word).toNat ≤ 0x7FFF) ∧
    (State.reset.banks = .one ∧ 0xC000 ≤ (0xC000 : Word).toNat) ∧
    ((withCartridge .two .prgMirror).banks = .two ∧ 0x8000 ≤ (0x8000 : Word).toNat) ∧
    (State.reset.mapper = .absent ∧ 0x8000 ≤ (0x8000 : Word).toNat ∧ (0xBFFF : Word).toNat ≤ 0xBFFF) ∧
    (withCartridge .one .prgMirror).banks = .one ∧ (withCartridge .one .prgMirror).mapper ≠ .absent := by decide

theorem test_witness_MirrorsShareOneCell :
    State.reset.ram.wf Config.ramSize = true ∧ 0x07FF < 0x0800 ∧ 3 < 4 ∧ 0 < 4 ∧ 0x03FF < 0x0400 ∧ 7 < 8 := by decide

theorem test_witness_RomRefusesStores :
    0x3FFF < State.reset.banks.prgSize ∧ State.reset.banks.prgSize ≤ 0x4000 ∧
    State.reset.route 0xFFFF = .ok (.rom, 0x3FFF) ∧ (withCartridge .two .absent).route 0x8000 = .ok (.rom, 0) := by decide

theorem test_witness_StoreSeenByLoadsAndFetch :
    (State.reset.setPc 0x0FFF).ram.wf Config.ramSize = true ∧ (0x1FFF : Word).toNat ≤ 0x1FFF ∧
    (okParts (busStore 0x1FFF 0xEA (State.reset.setPc 0x0FFF))).isSome = true ∧
    (State.reset.setPc 0x0FFF).route 0x1FFF = .ok (.ram, 0x7FF) ∧
    (State.reset.setPc 0x0FFF).route (State.reset.setPc 0x0FFF).pc = .ok (.ram, 0x7FF) ∧
    (State.reset.setPc 0x0FFF).route 0x1FFE ≠ .ok (.ram, 0x7FF) := by decide

theorem test_witness_Load16StaysInPage :
    (okParts (busLoad16 0x00FF State.reset)).isSome = true ∧ faults (busLoad 0x4018) State.reset = true ∧
    okParts (busLoad 0x4017 registerState) = some (0x40, registerState) ∧
    nextInPage 0x4017 = 0x4018 ∧ faults (busLoad 0x4018) registerState = true := by decide +kernel

theorem test_witness_Store16ThenLoad16 :
    (okParts (busStore 0x00FF (lo 0x1234) State.reset)).isSome = true ∧
    State.reset.ram.wf Config.ramSize = true ∧ (0x1FFF : Word).toNat ≤ 0x1FFF := by decide

theorem test_witness_PushAndPop :
    (State.reset.setSp 0x00).sp = 0x00 ∧ (State.reset.setSp 0x01).sp ≠ 0x00 ∧
    State.reset.ram.wf Config.ramSize = true ∧ (okParts (push 0xFF (State.reset.setSp 0x01))).isSome = true ∧
    (State.reset.setSp 0xFF).sp = 0xFF ∧ (State.reset.setSp 0xFE).sp ≠ 0xFF := by decide

theorem test_witness_PushesThenPopsReverse :
    State.reset.ram.wf Config.ramSize = true ∧
    ([0x01, 0x02] : List Byte).length ≤ (State.reset.setSp 0x02).sp.toNat ∧
    ([] : List Byte).length ≤ (State.reset.setSp 0x00).sp.toNat := by decide

theorem test_witness_BiasedBitsReadTheirBias :
    ((BiasedReg.plain 0xFF).bias 0 false).wf = true ∧ ((BiasedReg.plain 0x00).bias 7 true).wf = true := by decide

/-- Both kinds of fault of a load and of a store, and an access that a register block of no registers refuses. -/
theorem test_witness_AccessReachesOneDevice :
    State.reset.route 0x4018 = .error (.unmapped 0x4018) ∧ registerState.route 0x4017 = .ok (.io, 0x17) ∧
    (deviceLoad .io 0x17 registerState).1 = .ok 0x40 ∧
    (deviceLoad .ppu 0 { State.reset with ppu := .registers [] }).1 = .error .offsetOutOfRange ∧
    (deviceStore .io 0x17 0xFF registerState).1 = .ok () ∧ (deviceStore .rom 0x3FFF 0xFF State.reset).1 = .error .readOnly ∧
    State.reset.route 0xFFFF = .ok (.rom, 0x3FFF) := by decide +kernel

theorem test_witness_StepRunsTheDecodedInstruction :
    Instr.opcode (.lda .immediate) = some 0xA9 ∧ (codeState [0xA9, 0x80]).quietByte? 0xC000 = some 0xA9 ∧
    (okParts (busLoad 0xC000 (codeState [0xA9, 0x80]))).map Prod.fst = some 0xA9 ∧
    (nextState (step (codeState [0xA9, 0x80]))).map (fun u => u.pc) = some 0xC002 ∧
    (decode 0xA9).transfersControl = false := by decide +kernel

theorem test_witness_FetchFaultLeavesRegisters :
    faults (busLoad 0x5000) noOperand = true ∧ noOperand.pc = 0x5000 ∧
    0x4018 ≤ (State.reset.setPc 0x4018).pc.toNat ∧ (State.reset.setPc 0x7FFF).pc.toNat ≤ 0x7FFF ∧
    State.reset.banks = .one ∧ State.reset.mapper = .absent ∧ 0x8000 ≤ (State.reset.setPc 0x8000).pc.toNat ∧
    (State.reset.setPc 0xBFFF).pc.toNat ≤ 0xBFFF := by decide

/-- An operand for every mode that has one, and a descriptor of each mode that has none. -/
theorem test_witness_ResolverFollowsTheTable :
    [(0x0A : Byte), 0xA9, 0xA5, 0xB5, 0xB6, 0xAD, 0xBD, 0xB9, 0x6C, 0xA1, 0xB1, 0xF0].all
      (fun op => ((ramOperand.past 3 0).effective? (lookup op)).isSome) = true ∧
    (lookup 0xEA).mode = .implied ∧ (lookup 0x02).mode = .illegal ∧
    (⟨0x00, "", 1, 0, false, .unknown⟩ : Descriptor).mode = .unknown := by decide +kernel

/-- A PC past an operand that straddles a page: RAM holds 0x10 at 0x03FF, the PPU has its registers and I/O has none. -/
def straddle (wrap : Bool) (pc : Word) : State :=
  { registerState with operandWrap := wrap, pc := pc, ram := [(0x3FF, 0x10)], io := .registers [] }

/-- Both values of OPERAND_WRAP; at the end of the address space, in unmapped space, and from PPU into I/O, where the
second read faults. -/
theorem test_witness_StraddlingOperandFollowsOperandWrap :
    lo ((straddle true 0x0401).pc - 2) = 0xFF ∧ (straddle true 0x0401).operandWrap = true ∧
    (straddle true 0x0401).quietByte? 0x03FF = some 0x10 ∧
    (straddle true 0x0401).quietByte? (cat (hi 0x03FF) 0x00) = some 0x00 ∧
    okParts (busLoad 0x03FF (straddle true 0x0401)) = some (0x10, straddle true 0x0401) ∧
    faults (busLoad (cat (hi 0x03FF) 0x00)) (straddle true 0x0401) = false ∧
    lo ((straddle false 0x0001).pc - 2) = 0xFF ∧ (straddle false 0x0001).operandWrap = false ∧
    (straddle false 0x0001).quietByte? (0x0001 - 2) = some 0x00 ∧
    (straddle false 0x0001).quietByte? (0x0001 - 1) = some 0x00 ∧
    lo ((straddle true 0x5101).pc - 2) = 0xFF ∧ faults (busLoad (0x5101 - 2)) (straddle true 0x5101) = true ∧
    lo ((straddle false 0x4001).pc - 2) = 0xFF ∧
    okParts (busLoad (0x4001 - 2) (straddle false 0x4001)) = some (0x40, straddle false 0x4001) ∧
    faults (busLoad (0x4001 - 1)) (straddle false 0x4001) = true := by decide

theorem test_witness_StepsFaultOnlyAsTheTableSays :
    (faultParts (step (codeState [0x02]))).map Prod.fst = some (.illegal (.noHandler 0x02)) := by decide +kernel

/-- The largest count: a branch taken across a page (T44.11). -/
theorem test_witness_StepCyclesAreBounded :
    (nextState (step { State.reset with pc := 0xC100, prg := [(0x100, 0xD0), (0x101, 0xFB)] })).map (fun t => t.cyc) =
      some 4 ∧
    stepDescriptor { State.reset with pc := 0xC100, prg := [(0x100, 0xD0), (0x101, 0xFB)] } =
      some ⟨0xD0, "BNE", 2, 2, true, .relative⟩ := by decide +kernel

theorem test_witness_StepKeepsInvariant :
    (dataState [0x28] [(0x1FE, 0xFF)]).wf = true ∧
    (nextState (step (dataState [0x28] [(0x1FE, 0xFF)]))).map (fun t => t.p) = some 0xEF ∧
    registerState.wf = true := by decide +kernel

/-- Every host action, PLP and RTI. -/
theorem test_witness_BreakAndUnusedKeepTheirValues :
    State.reset.p &&& 0x30 = 0x20 ∧
    [HostAction.reset, .step, .peek 0xFFFF, .jsr 0x0000, .getRegisters, .getCycles, .irq, .nmi].all
      (fun act => actionCompletes act (codeState [0x78])) = true ∧
    [Instr.plp, .rti].all (fun i => completes i (State.reset.setSp 0xFA)) = true := by decide +kernel

theorem test_witness_DecimalNeverAltersAnything :
    Instr.adc .immediate ≠ .php ∧ Instr.adc .immediate ≠ .brk ∧ State.reset.ram.wf Config.ramSize = true ∧
    [Instr.sed, .cld, .plp, .rti, .php, .brk].all (fun i => completes i (State.reset.setSp 0x80)) = true := by decide +kernel

theorem test_witness_FlagsChangeOnlyByTheirWriters :
    completes (.lda .immediate) ramOperand = true ∧ (Instr.lda .immediate).writesFlag .carry = false ∧
    completes .nop ramOperand = true ∧
    [Flag.carry, .zero, .interruptDisable, .decimal, .break, .unused, .overflow, .negative].all
      (fun f => !Instr.nop.writesFlag f) = true := by decide +kernel

theorem test_witness_RegistersChangeOnlyByTheirWriters :
    completes .nop ramOperand = true ∧ Instr.nop.writesA = false ∧ Instr.nop.writesX = false ∧
    Instr.nop.writesY = false ∧ Instr.nop.writesSp = false ∧ Instr.nop.transfersControl = false := by decide +kernel

theorem test_witness_CartridgeIsFixed : completes (.sta .absolute) ramOperand = true := by decide +kernel

theorem test_witness_NonStoringFormsKeepMemory :
    [Instr.lda .absolute, .cmp .absolute, .asl .accumulator, .pla, .rts].all
      (fun i => completes i ramOperand && !i.storesOperand && i.pushes == 0) = true := by decide +kernel

/-- The store goes to 0x0010 and its mirrors; 0x0011 is another cell. -/
theorem test_witness_StoringFormsKeepOtherBytes :
    ramOperand.wf = true ∧
    [Instr.sta .absolute, .inc .absolute, .rol .absolute, .saxU .absolute, .rraU .absolute].all
      (fun i => completes i ramOperand && i.storesOperand && withDescriptor i (fun d =>
        (okParts (resolve d (ramOperand.advance d))).map Prod.fst == some 0x0010)) = true ∧
    ramOperand.route 0x0010 = .ok (.ram, 0x10) ∧ ramOperand.route 0x0011 ≠ .ok (.ram, 0x10) := by decide +kernel

theorem test_witness_PushingFormsKeepOtherBytes :
    ramOperand.ram.wf Config.ramSize = true ∧
    [Instr.pha, .php, .jsr, .brk].all (fun i => completes i ramOperand && 0 < i.pushes) = true ∧
    stackAddr ramOperand.sp = 0x01FD ∧ ramOperand.route 0x01FD ≠ ramOperand.route 0x01FA := by decide +kernel

theorem test_witness_LoadsSetRegisterAndZN :
    readsWitness [.lda .absolute, .ldx .absolute, .ldy .absolute] = true ∧
    immediateWitness [.lda .immediate, .ldx .immediate, .ldy .immediate] = true := by decide +kernel

theorem test_witness_StoresWriteTheRegister :
    storesWitness [(.sta .absolute, State.a), (.stx .absolute, State.x), (.sty .absolute, State.y)] = true := by
  decide +kernel

theorem test_witness_AddAndSubtractApplyAddCarry :
    readsWitness [.adc .absolute, .sbc .absolute] = true ∧
    immediateWitness [.adc .immediate, .sbc .immediate, .sbcU] = true := by decide +kernel

theorem test_witness_LogicAndBitTest :
    readsWitness [.and .absolute, .ora .absolute, .eor .absolute, .bit .absolute] = true ∧
    immediateWitness [.and .immediate, .ora .immediate, .eor .immediate] = true := by decide +kernel

theorem test_witness_ComparesApplyCompare :
    readsWitness [.cmp .absolute, .cpx .absolute, .cpy .absolute] = true ∧
    immediateWitness [.cmp .immediate, .cpx .immediate, .cpy .immediate] = true := by decide +kernel

theorem test_witness_IncrementAndDecrementMemory :
    modifiesWitness [(.inc .absolute, incByte), (.dec .absolute, decByte)] = true := by decide +kernel

theorem test_witness_ShiftsAndRotates :
    modifiesWitness [(.asl .absolute, aslByte), (.lsr .absolute, lsrByte), (.rol .absolute, rolByte),
      (.ror .absolute, rorByte)] = true ∧
    [Instr.asl .accumulator, .lsr .accumulator, .rol .accumulator, .ror .accumulator].all
      (fun i => withDescriptor i (fun d => d.mode == .accumulator)) = true := by decide +kernel

/-- The pointer at the end of a page (T44.2). -/
theorem test_witness_JumpTakesTheResolvedAddress :
    [Instr.jmp .absolute, .jmp .indirect].all (fun i =>
      withDescriptor i (fun d => (((codeState [0x6C, 0xFF, 0x02]).advance d).effective? d).isSome) &&
      resolverFaults i noOperand && completes i ramOperand) = true := by decide +kernel

theorem test_witness_JsrPushesTheReturnAddress :
    ((ramOperand.past 3 6).effective? (lookup 0x20)) = some 0x0010 ∧ 2 ≤ (ramOperand.setSp 0x02).sp.toNat ∧
    (((ramOperand.setSp 0x01).past 3 6).effective? (lookup 0x20)).isSome = true ∧
    (((ramOperand.setSp 0x00).past 3 6).effective? (lookup 0x20)).isSome = true ∧
    [(0x02 : Byte), 0x01, 0x00].all (fun sp => !faults (resolve (lookup 0x20)) ((ramOperand.setSp sp).past 3 6)) = true ∧
    faults (resolve (lookup 0x20)) (noOperand.past 3 6) = true := by decide +kernel

theorem test_witness_RtsReturnsPastThePoppedAddress :
    (State.reset.setSp 0xFD).sp.toNat ≤ 0xFD ∧ (State.reset.setSp 0xFE).sp = 0xFE ∧
    (State.reset.setSp 0xFF).sp = 0xFF := by decide

theorem test_witness_CallThenReturn :
    ramOperand.ram.wf Config.ramSize = true ∧ completes .jsr (ramOperand.setSp 0x02) = true := by decide +kernel

/-- Taken in the same page and across one, not taken, and a taken branch whose operand cannot be read. -/
theorem test_witness_BranchesTestOneFlag :
    (State.reset.flag .zero ≠ true ∧ State.reset.flag .zero = false) ∧
    (codeState [0xD0, 0x7F]).quietByte? (0xC000 + 1) = some 0x7F ∧
    (okParts (busLoad (0xC000 + 1) ((codeState [0xD0, 0x7F]).past 2 3))).map Prod.fst = some 0x7F ∧
    hi ((0xC000 : Word) + 2 + sext16 0xFD) ≠ hi ((0xC000 : Word) + 2) ∧
    hi ((0xC000 : Word) + 2 + sext16 0xFE) = hi ((0xC000 : Word) + 2) ∧
    faults (busLoad (0x5000 + 1)) (noOperand.past 2 3) = true := by decide

theorem test_witness_PushInstructions :
    (State.reset.setSp 0x01).sp ≠ 0x00 ∧ (State.reset.setSp 0x00).sp = 0x00 := by decide

theorem test_witness_PullInstructions :
    (State.reset.setSp 0xFE).sp ≠ 0xFF ∧ (State.reset.setSp 0xFF).sp = 0xFF := by decide

theorem test_witness_BrkTakesTheInterruptEntry :
    3 ≤ (State.reset.setSp 0x03).sp.toNat ∧ (State.reset.setSp 0x02).sp = 0x02 ∧ (State.reset.setSp 0x01).sp = 0x01 ∧
    (State.reset.setSp 0x00).sp = 0x00 := by decide

theorem test_witness_RtiRestoresStatusAndAddress :
    (State.reset.setSp 0xFC).sp.toNat ≤ 0xFC ∧ (State.reset.setSp 0xFD).sp = 0xFD ∧ (State.reset.setSp 0xFE).sp = 0xFE ∧
    (State.reset.setSp 0xFF).sp = 0xFF := by decide

/-- The three kinds of form, quiet and faulting. -/
theorem test_witness_UndocumentedNopsOnlyRead :
    withDescriptor (.nopU 0xFA) (fun d => d.mode == .implied) = true ∧
    withDescriptor (.nopU 0x80) (fun d => d.mode == .immediate) = true ∧
    (okParts (busLoad (0xC000 + 1) (ramOperand.past 2 2))).isSome = true ∧
    faults (busLoad (0x5000 + 1)) (noOperand.past 2 2) = true ∧
    readsWitness [.nopU 0x0C, .nopU 0xFC] = true := by decide +kernel

theorem test_witness_LaxAndSax :
    readsWitness [.laxU .absolute] = true ∧
    storesWitness [(.saxU .absolute, fun s => s.a &&& s.x)] = true := by decide +kernel

/-- The last clause: code in the I/O block whose operand is its own high byte, so that the second resolution reads an
address in a PPU block of no registers. -/
theorem test_witness_CompositesRunBothOperations :
    [(Instr.dcpU .absolute, decByte), (.iscU .absolute, incByte), (.sloU .absolute, aslByte), (.rlaU .absolute, rolByte),
     (.sreU .absolute, lsrByte), (.rraU .absolute, rorByte)].all
      (fun c => compositeQuietly c.1 c.2 ramOperand && secondPart c.1 c.2 ramOperand == some false &&
        withDescriptor c.1 (fun d => faults (modifyOperand d c.2) (unmappedOperand.advance d))) = true ∧
    secondPart (.sreU .absolute) lsrByte
      { State.reset with
        pc := 0x4000, ppu := .registers [],
        io := .registers ([0x4F, 0x02, 0x40].map BiasedReg.plain) } = some true ∧
    State.reset.ram.wf Config.ramSize = true ∧ (0x1FFF : Word).toNat ≤ 0x1FFF ∧
    (State.reset.quietStore? 0x1FFF 0xFF).isSome = true := by decide +kernel

theorem test_witness_IrqAndNmiEntry :
    State.reset.flag .interruptDisable = true ∧ (State.reset.setP 0x20).flag .interruptDisable = false ∧
    3 ≤ (State.reset.setSp 0x03).sp.toNat ∧ (State.reset.setSp 0x02).sp = 0x02 ∧ (State.reset.setSp 0x01).sp = 0x01 ∧
    (State.reset.setSp 0x00).sp = 0x00 := by decide

theorem test_witness_InterruptThenReturn :
    (State.reset.setSp 0x03).wf = true ∧ completes .brk (State.reset.setSp 0x03) = true ∧
    ((State.reset.setSp 0x03).setP 0x20).wf = true ∧
    (okParts (nmi (State.reset.setSp 0x03))).any (fun r => r.2 ≠ State.reset.setSp 0x03) = true ∧
    (okParts (irq ((State.reset.setSp 0x03).setP 0x20))).any (fun r => r.2 ≠ (State.reset.setSp 0x03).setP 0x20) =
      true := by decide +kernel

theorem test_witness_PowerOnBuildsTheLaunchState :
    ((launchOf [] 0).prgBanks ≠ 1 ∧ (launchOf [] 0).prgBanks ≠ 2) ∧ (launchOf [] 3).prgBanks ≠ 2 ∧
    ((launchOf [] 1).prgBanks = 1 ∧ (launchOf [] 1).prg.length ≠ 0x4000 * (launchOf [] 1).prgBanks) ∧
    (launchOf [] 1).ppu.wf Config.ppuRegs = true ∧ (launchOf [] 1).io.wf Config.ioRegs = true := by decide

/-- The right length for each bank count. -/
theorem test_witness_PowerOnBuildsTheLaunchState_prg :
    (launchOf (List.replicate 0x4000 0xEA) 1).prg.length = 0x4000 * 1 ∧
    (launchOf (List.replicate 0x8000 0xEA) 2).prg.length = 0x4000 * 2 :=
  ⟨List.length_replicate, List.length_replicate⟩

end Sys2Proof.Tests
end

section
/-! The frame of the instructions that store nothing and push nothing (00_scope.md R12, 40_engine.md R74): what they are
made of, loads and writes of the CPU record, keeps every byte of memory as it reads. -/

namespace Sys2Proof.Machine

/-- RAM is the same, and every byte of memory reads as it did. -/
def SameMemory (s t : State) : Prop := t.ram = s.ram ∧ ∀ a, t.quietByte? a = s.quietByte? a

theorem SameMemory.frame : Frame SameMemory where
  refl _ := ⟨rfl, fun _ => rfl⟩
  trans := fun ⟨hram, hbyte⟩ ⟨hram', hbyte'⟩ => ⟨hram'.trans hram, fun a => (hbyte' a).trans (hbyte a)⟩

/-- A load may change an external device, of which no byte reads without a side effect; nothing else (20_memory.md R32,
R35). -/
theorem deviceLoad_sameMemory (d : DeviceId) (o : Nat) (s : State) : SameMemory s (deviceLoad d o s).2 := by
  obtain ⟨-, -, -, -, -, -, -, hram, -⟩ := deviceLoad_fixed d o s
  exact ⟨hram, deviceLoad_quiet d o s⟩

theorem SameMemory.loadFrame : LoadFrame SameMemory :=
  { SameMemory.frame with
    load := deviceLoad_sameMemory
    cycles := fun _ _ => ⟨rfl, fun _ => rfl⟩ }

/-- The advance moves PC and the cycle counter only (40_engine.md R68). -/
theorem advance_sameMemory (d : Descriptor) (s : State) : SameMemory s (s.advance d) :=
  ⟨rfl, quietByte?_advance s d⟩

/-- Without a store and a push, the elementary changes of an instruction are loads and writes of the CPU record, and
memory is no part of that record (10_state.md R14). -/
theorem SameMemory.instrFrame {i : Instr} (hstore : i.storesOperand = false) (hpush : i.pushes = 0) :
    InstrFrame i SameMemory :=
  { SameMemory.loadFrame with
    store := fun h => by simp [hstore, hpush] at h
    pc := fun _ _ _ => ⟨rfl, fun _ => rfl⟩
    sp := fun _ _ _ => ⟨rfl, fun _ => rfl⟩
    a := fun _ _ _ => ⟨rfl, fun _ => rfl⟩
    x := fun _ _ _ => ⟨rfl, fun _ => rfl⟩
    y := fun _ _ _ => ⟨rfl, fun _ => rfl⟩
    flag := fun _ _ _ _ => ⟨rfl, fun _ => rfl⟩
    pulled := fun _ _ _ => ⟨rfl, fun _ => rfl⟩ }

/-- Settles O30: `SameMemory` is a frame of the instruction's elementary changes, and its advance keeps it too. -/
theorem nonStoringFormsKeepMemory : Obligations.NonStoringFormsKeepMemory := by
  intro i s t hexec hstore hpush
  obtain ⟨d, -, hhandler⟩ := exec_keeps_from (SameMemory.instrFrame hstore hpush) hexec
  exact SameMemory.frame.trans (advance_sameMemory d s) hhandler

end Sys2Proof.Machine
end

section
/-! The invariant of a machine state under a step (10_state.md R21, 20_memory.md R28, R43): every elementary change of
an instruction keeps `State.wf` and the bits Break and unused of P, and of the host actions `reset()` alone writes
those two. -/

namespace Sys2Proof.Machine

/-- Break and unused of P are the same (10_state.md R21). -/
def SameKeptBits (s t : State) : Prop := t.p &&& 0x30 = s.p &&& 0x30

theorem SameKeptBits.stepFrame : StepFrame SameKeptBits :=
  { Frame.ofEq (fun s => s.p &&& 0x30) with
    load := fun d o s => congrArg (fun r : Registers => r.p &&& 0x30) (deviceLoad_registers d o s)
    store := fun d o v s => congrArg (fun r : Registers => r.p &&& 0x30) (deviceStore_registers d o v s)
    cycles := fun _ _ => rfl
    pc := fun _ _ => rfl
    sp := fun _ _ => rfl
    a := fun _ _ => rfl
    x := fun _ _ => rfl
    y := fun _ _ => rfl
    flag := fun _ b hbreak hunused s => putFlag_keptBits s.p b hbreak hunused
    pulled := fun v s => pulledStatus_keptBits s.p v }

/-- The state after meets the invariant where the state before does. -/
def PreservesWf (s t : State) : Prop := s.wf = true → t.wf = true

/-- The invariant asks nothing of P beyond Break and unused. -/
theorem setP_preservesWf {s : State} {v : Byte} (hv : v &&& 0x30 = s.p &&& 0x30) : PreservesWf s (s.setP v) := by
  intro h
  obtain ⟨hram, hprg, hp, hppu, hio⟩ := s.wf_iff.mp h
  exact (State.wf_iff _).mpr ⟨hram, hprg, hv.trans hp, hppu, hio⟩

/-- The invariant looks at no register but P, so a write of another one keeps it as it is. -/
theorem PreservesWf.stepFrame : StepFrame PreservesWf where
  refl _ := id
  trans h h' := h' ∘ h
  load d o _ h := deviceLoad_wf h d o
  store d o v _ h := deviceStore_wf h d o v
  cycles _ _ := id
  pc _ _ := id
  sp _ _ := id
  a _ _ := id
  x _ _ := id
  y _ _ := id
  flag _ b hbreak hunused s := setP_preservesWf (putFlag_keptBits s.p b hbreak hunused)
  pulled v s := setP_preservesWf (pulledStatus_keptBits s.p v)

/-- Settles O24: `PreservesWf` is a frame of the elementary changes that every step is made of. -/
theorem stepKeepsInvariant : Obligations.StepKeepsInvariant :=
  fun _ _ hwf hstep => step_keeps PreservesWf.stepFrame hstep hwf

/-- Settles O23: both memories are empty, the register blocks are external, and `RESET_P` is 0x24 (10_state.md R26). -/
theorem resetSatisfiesInvariant : Obligations.ResetSatisfiesInvariant :=
  State.reset.wf_iff.mpr ⟨rfl, rfl, rfl, rfl, rfl⟩

theorem replyOutcome_next {α : Type} {reply : α → Reply} {r : EStateM.Result Cause State α} {t : State} {b : Reply}
    (h : replyOutcome reply r = .next (t, b)) : ∃ v, r = .ok v t := by
  cases r with
  | ok v u => cases h; exact ⟨v, rfl⟩
  | error c u => cases h

/-- The entry of IRQ and NMI sets I; P itself keeps Break (60_exceptions.md R160, D11). -/
theorem takeInterrupt_keptBits (vec : Word) : Keeps SameKeptBits (takeInterrupt vec) :=
  have h := SameKeptBits.stepFrame
  .takeInterrupt h.toStoreFrame h.sp h.pc (h.flag .interruptDisable true (by decide) (by decide)) vec

theorem irq_keptBits : Keeps SameKeptBits irq :=
  have h := SameKeptBits.stepFrame.toFrame
  .bind h (.readState h) fun _ => .ite (.pure h ()) (takeInterrupt_keptBits Config.vecIrq)

/-- A host action that completes keeps Break and unused, but for `reset()`, which gives P the value `RESET_P`. -/
theorem hostAction_keptBits {act : HostAction} {s t : State} {reply : Reply} (h : act.run s = .next (t, reply)) :
    SameKeptBits s t ∨ t = hostReset s := by
  cases act with
  | reset => cases h; exact .inr rfl
  | step =>
    cases hs : step s with
    | next u => rw [run_step_of_next hs] at h; cases h; exact .inl (step_keeps SameKeptBits.stepFrame hs)
    | fault f => rw [run_step_of_fault hs] at h; cases h
    | refused r => simp only [HostAction.run, hs] at h; cases h
  | peek a =>
    obtain ⟨v, hv⟩ := replyOutcome_next h
    exact .inl ((Keeps.busLoad SameKeptBits.stepFrame.toLoadFrame a).of_ok hv)
  | jsr a => cases h; exact .inl rfl
  | getRegisters => cases h; exact .inl rfl
  | getCycles => cases h; exact .inl rfl
  | irq =>
    obtain ⟨v, hv⟩ := replyOutcome_next h
    exact .inl (irq_keptBits.of_ok hv)
  | nmi =>
    obtain ⟨v, hv⟩ := replyOutcome_next h
    exact .inl ((takeInterrupt_keptBits Config.vecNmi).of_ok hv)

/-- Where the pull of the status byte answers, all that it does (45_stack_flags_system.md R133). -/
theorem popStatus_inv {s t : State} (h : popStatus s = .ok () t) :
    t = (s.setSp (s.sp + 1)).setP (pulledStatus s.p s.top) := by
  by_cases hsp : s.sp = 0xFF
  · rw [popStatus_error hsp] at h; cases h
  · rw [popStatus_ok hsp] at h; cases h; rfl

/-- Loads and the pops after the status byte keep P. -/
theorem sameP_loadFrame : LoadFrame (fun s t => t.p = s.p) :=
  { Frame.ofEq State.p with
    load := fun d o s => congrArg Registers.p (deviceLoad_registers d o s)
    cycles := fun _ _ => rfl }

/-- P after RTI's sequence is what its first pop left (45_stack_flags_system.md R143). -/
theorem returnSeq_p {s t : State} (h : returnSeq s = .ok () t) : t.p = pulledStatus s.p s.top := by
  obtain ⟨_, u, hstatus, hrest⟩ := M.bind_ok_inv h
  obtain rfl := popStatus_inv hstatus
  obtain ⟨target, w, hpop, hpc⟩ := M.bind_ok_inv hrest
  cases hpc
  exact (Keeps.popWord sameP_loadFrame fun _ _ => rfl).of_ok hpop

/-- PLP and RTI take every flag but Break and unused from the byte on top of the stack. -/
theorem exec_pull_p {i : Instr} {s t : State} (hi : i = .plp ∨ i = .rti) (h : exec i s = .next t) :
    t.p = pulledStatus s.p s.top := by
  rcases hi with rfl | rfl
  · obtain ⟨d, -, hplp⟩ := runInstr_next (exec_plp s ▸ h)
    rw [popStatus_inv hplp]
    rfl
  · obtain ⟨d, -, hrti⟩ := runInstr_next (exec_rti s ▸ h)
    exact returnSeq_p (s := s.advance d) hrti

/-- Settles O25: every instruction and every host action but `reset()` keeps the two bits, and `RESET_P` has them at
0x20. -/
theorem breakAndUnusedKeepTheirValues : Obligations.BreakAndUnusedKeepTheirValues := by
  refine ⟨fun act s t reply hp h => ?_, fun _ => rfl, fun i s t h => exec_keeps SameKeptBits.stepFrame h,
    fun i s t hi h => exec_pull_p hi h⟩
  rcases hostAction_keptBits h with hkept | rfl
  · exact Eq.trans hkept hp
  · exact show Config.resetP &&& 0x30 = 0x20 by decide

end Sys2Proof.Machine
end

section
/-! Who writes a flag and a register (10_state.md R15 to R17, R20): an instruction's elementary changes are those the
tables of the spec allow it, so what no table names stays. -/

namespace Sys2Proof.Machine

theorem pullsStatus_iff {i : Instr} : i.pullsStatus = true ↔ i = .plp ∨ i = .rti := by
  cases i <;> simp [Instr.pullsStatus]

/-- The instructions that pull P write every flag but Break and unused. -/
theorem unwritten_of_pullsStatus {i : Instr} {f : Flag} (hi : i.pullsStatus = true) (hf : i.writesFlag f = false) :
    f = .break ∨ f = .unused := by
  rcases pullsStatus_iff.mp hi with rfl | rfl <;> revert hf <;> cases f <;> decide

/-- A flag that the instruction does not write is no part of its elementary changes. -/
theorem sameFlag_instrFrame {i : Instr} {f : Flag} (hf : i.writesFlag f = false) :
    InstrFrame i (fun s t => t.flag f = s.flag f) :=
  { Frame.ofEq (fun s => s.flag f) with
    load := fun d o s => congrArg (fun r : Registers => flagOf r.p f) (deviceLoad_registers d o s)
    store := fun _ d o v s => congrArg (fun r : Registers => flagOf r.p f) (deviceStore_registers d o v s)
    cycles := fun _ _ => rfl
    pc := fun _ _ _ => rfl
    sp := fun _ _ _ => rfl
    a := fun _ _ _ => rfl
    x := fun _ _ _ => rfl
    y := fun _ _ _ => rfl
    flag := fun g b hg s => by
      have hne : g ≠ f := by rintro rfl; simp [hg] at hf
      simp [State.flag, hne]
    pulled := fun hi v s => by
      have hkept := unwritten_of_pullsStatus hi hf
      simp [State.flag, flagOf_pulledStatus, hkept] }

/-- Settles O27: a flag that is not written is a frame of the instruction, and the advance keeps P. -/
theorem flagsChangeOnlyByTheirWriters : Obligations.FlagsChangeOnlyByTheirWriters := by
  intro i s t f hexec hf
  obtain ⟨d, -, hhandler⟩ := exec_keeps_from (sameFlag_instrFrame hf) hexec
  exact hhandler

/-- The registers that an instruction does not write are the same, PC among them where control is not transferred. -/
structure SameUnwritten (i : Instr) (s t : State) : Prop where
  a : i.writesA = false → t.a = s.a
  x : i.writesX = false → t.x = s.x
  y : i.writesY = false → t.y = s.y
  sp : i.writesSp = false → t.sp = s.sp
  pc : i.transfersControl = false → t.pc = s.pc

variable {i : Instr}

theorem SameUnwritten.of_registers {s t : State} (h : getRegisters t = getRegisters s) : SameUnwritten i s t where
  a _ := congrArg Registers.a h
  x _ := congrArg Registers.x h
  y _ := congrArg Registers.y h
  sp _ := congrArg Registers.sp h
  pc _ := congrArg Registers.pc h

theorem SameUnwritten.refl (s : State) : SameUnwritten i s s := .of_registers rfl

theorem SameUnwritten.frame : Frame (SameUnwritten i) where
  refl := .refl
  trans h h' :=
    { a := fun hw => (h'.a hw).trans (h.a hw)
      x := fun hw => (h'.x hw).trans (h.x hw)
      y := fun hw => (h'.y hw).trans (h.y hw)
      sp := fun hw => (h'.sp hw).trans (h.sp hw)
      pc := fun hw => (h'.pc hw).trans (h.pc hw) }

/-- A register is written only by an instruction that the tables name as its writer; memory and P are not among
them. -/
theorem SameUnwritten.instrFrame : InstrFrame i (SameUnwritten i) :=
  { SameUnwritten.frame with
    load := fun d o s => .of_registers (deviceLoad_registers d o s)
    store := fun _ d o v s => .of_registers (deviceStore_registers d o v s)
    cycles := fun _ _ => .of_registers rfl
    a := fun hw _ s => { SameUnwritten.refl s with a := fun h => by simp [hw] at h }
    x := fun hw _ s => { SameUnwritten.refl s with x := fun h => by simp [hw] at h }
    y := fun hw _ s => { SameUnwritten.refl s with y := fun h => by simp [hw] at h }
    sp := fun hw _ s => { SameUnwritten.refl s with sp := fun h => by simp [hw] at h }
    pc := fun hw _ s => { SameUnwritten.refl s with pc := fun h => by simp [hw] at h }
    flag := fun _ _ _ s => { SameUnwritten.refl s with }
    pulled := fun _ _ s => { SameUnwritten.refl s with } }

/-- Settles O28: from the advanced state on, the unwritten registers stay, and the advance moves PC by the length of the
instruction's format (30_encoding.md R54). -/
theorem registersChangeOnlyByTheirWriters : Obligations.RegistersChangeOnlyByTheirWriters := by
  intro i s t hexec
  obtain ⟨d, hd, hkept⟩ := exec_keeps_from SameUnwritten.instrFrame hexec
  obtain ⟨-, -, -, -, -, -, hlength⟩ := descriptor_facts hd
  refine ⟨hkept.a, hkept.x, hkept.y, hkept.sp, fun hpc => ?_⟩
  rw [hkept.pc hpc, State.advance_pc, hlength]

end Sys2Proof.Machine
end

section
/-! Decimal changes no result (10_state.md R22), as a statement about two runs: a computation started with P.D as it is
and one started with P.D clear make the same accesses, answer the same value or raise the same cause, and leave states
that differ in P.D at most. One lemma for each shared operation; an instruction is then its handler read line by
line. -/

namespace Sys2Proof.Machine

variable {α β : Type}

theorem putFlag_putFlag_same (p : Byte) (f : Flag) (b c : Bool) : putFlag (putFlag p f b) f c = putFlag p f c := by
  apply status_ext
  intro g
  by_cases h : f = g <;> simp [h]

theorem putFlag_comm {f g : Flag} (h : f ≠ g) (p : Byte) (b c : Bool) :
    putFlag (putFlag p f b) g c = putFlag (putFlag p g c) f b := by
  apply status_ext
  intro k
  by_cases hf : f = k
  · subst hf; simp [h.symm]
  · simp [hf]

/-- The state with P.D clear: all that two states agree on that differ in P.D alone. -/
def State.clearD (s : State) : State := s.setFlag .decimal false

theorem clearD_setFlag_decimal (s : State) (b : Bool) : (s.setFlag .decimal b).clearD = s.clearD :=
  congrArg s.setP (putFlag_putFlag_same s.p .decimal b false)

@[simp] theorem clearD_clearD (s : State) : s.clearD.clearD = s.clearD := clearD_setFlag_decimal s false

/-! A change of the state that neither reads nor writes P.D may be made before or after P.D is cleared. -/

@[simp] theorem setPc_clearD (s : State) (v : Word) : s.clearD.setPc v = (s.setPc v).clearD := rfl
@[simp] theorem setSp_clearD (s : State) (v : Byte) : s.clearD.setSp v = (s.setSp v).clearD := rfl
@[simp] theorem setA_clearD (s : State) (v : Byte) : s.clearD.setA v = (s.setA v).clearD := rfl
@[simp] theorem setX_clearD (s : State) (v : Byte) : s.clearD.setX v = (s.setX v).clearD := rfl
@[simp] theorem setY_clearD (s : State) (v : Byte) : s.clearD.setY v = (s.setY v).clearD := rfl
@[simp] theorem addCycles_clearD (s : State) (n : Nat) : s.clearD.addCycles n = (s.addCycles n).clearD := rfl
@[simp] theorem clearD_route (s : State) (w : Word) : s.clearD.route w = s.route w := rfl
@[simp] theorem clearD_ram (s : State) : s.clearD.ram = s.ram := rfl
@[simp] theorem clearD_sp (s : State) : s.clearD.sp = s.sp := rfl
@[simp] theorem clearD_a (s : State) : s.clearD.a = s.a := rfl
@[simp] theorem clearD_x (s : State) : s.clearD.x = s.x := rfl
@[simp] theorem clearD_y (s : State) : s.clearD.y = s.y := rfl

@[simp] theorem clearD_flag {f : Flag} (h : f ≠ .decimal) (s : State) : s.clearD.flag f = s.flag f := by
  simp [State.clearD, State.flag, h.symm]

@[simp] theorem setFlag_clearD {f : Flag} (h : f ≠ .decimal) (s : State) (b : Bool) :
    s.clearD.setFlag f b = (s.setFlag f b).clearD := congrArg s.setP (putFlag_comm h.symm s.p false b)

theorem setZN_eq (s : State) (r : Byte) :
    s.setZN r = (s.setFlag .zero (r == 0)).setFlag .negative (getBit r 7) := rfl

theorem addCarry_eq (s : State) (m : Byte) :
    s.addCarry m =
      (((s.setFlag .carry (decide (0xFF < carrySum s.a m (s.flag .carry)))).setFlag .overflow
        (carryOverflow s.a m (carryResult s.a m (s.flag .carry)))).setA (carryResult s.a m (s.flag .carry))).setZN
          (carryResult s.a m (s.flag .carry)) := rfl

theorem compare_eq (s : State) (reg m : Byte) :
    s.compare reg m =
      ((s.setFlag .carry (decide (compareDiff reg m < 0x100))).setFlag .zero (reg == m)).setFlag .negative
        ((compareDiff reg m).getLsbD 7) := rfl

theorem bitTest_eq (s : State) (m : Byte) :
    s.bitTest m =
      ((s.setFlag .zero (s.a &&& m == 0)).setFlag .overflow (getBit m 6)).setFlag .negative (getBit m 7) := rfl

@[simp] theorem setZN_clearD (s : State) (r : Byte) : s.clearD.setZN r = (s.setZN r).clearD := by
  simp [setZN_eq]

@[simp] theorem addCarry_clearD (s : State) (m : Byte) : s.clearD.addCarry m = (s.addCarry m).clearD := by
  simp [addCarry_eq]

@[simp] theorem compare_clearD (s : State) (reg m : Byte) :
    s.clearD.compare reg m = (s.compare reg m).clearD := by
  simp [compare_eq]

@[simp] theorem bitTest_clearD (s : State) (m : Byte) : s.clearD.bitTest m = (s.bitTest m).clearD := by
  simp [bitTest_eq]

/-- A function for Modify that neither reads nor writes P.D. -/
def ByteIgnoresD (f : Byte → State → Byte × State) : Prop := ∀ v s, f v s.clearD = ((f v s).1, (f v s).2.clearD)

theorem incByte_ignoresD : ByteIgnoresD incByte := fun v s => by simp [incByte]
theorem decByte_ignoresD : ByteIgnoresD decByte := fun v s => by simp [decByte]
theorem aslByte_ignoresD : ByteIgnoresD aslByte := fun v s => by simp [aslByte]
theorem lsrByte_ignoresD : ByteIgnoresD lsrByte := fun v s => by simp [lsrByte]
theorem rolByte_ignoresD : ByteIgnoresD rolByte := fun v s => by simp [rolByte]
theorem rorByte_ignoresD : ByteIgnoresD rorByte := fun v s => by simp [rorByte]

/-! Computations. -/

/-- A result with P.D clear in the state it carries. -/
def clearResult : EStateM.Result Cause State α → EStateM.Result Cause State α
  | .ok v t => .ok v t.clearD
  | .error c t => .error c t.clearD

@[simp] theorem clearResult_clearResult (r : EStateM.Result Cause State α) :
    clearResult (clearResult r) = clearResult r := by
  cases r <;> simp [clearResult]

/-- The run from a state and the run from that state with P.D clear differ in P.D of the final state at most. -/
def IgnoresD (m : M α) : Prop := ∀ s, clearResult (m s) = clearResult (m s.clearD)

namespace IgnoresD

/-- P.D may be cleared before the run or after it. -/
theorem of_comm {m : M α} (h : ∀ s, m s.clearD = clearResult (m s)) : IgnoresD m := fun s => by
  rw [h, clearResult_clearResult]

protected theorem pure (v : α) : IgnoresD (pure v : M α) := of_comm fun _ => rfl

protected theorem raise (c : Cause) : IgnoresD (raise c : M α) := of_comm fun _ => rfl

protected theorem update {f : State → State} (h : ∀ s, f s.clearD = (f s).clearD) : IgnoresD (update f) :=
  of_comm fun s => congrArg (EStateM.Result.ok ()) (h s)

protected theorem applyByte {f : Byte → State → Byte × State} (h : ByteIgnoresD f) (v : Byte) :
    IgnoresD (applyByte f v) :=
  of_comm fun s => congrArg (fun r : Byte × State => EStateM.Result.ok r.1 r.2) (h v s)

protected theorem bind {m : M α} {f : α → M β} (hm : IgnoresD m) (hf : ∀ v, IgnoresD (f v)) : IgnoresD (m >>= f) := by
  intro s
  have h := hm s
  cases e : m s with
  | ok v t =>
    cases e' : m s.clearD with
    | ok w u =>
      rw [e, e'] at h
      obtain ⟨rfl, htu⟩ := EStateM.Result.ok.inj h
      rw [M.bind_of_ok e, M.bind_of_ok e', hf v t, hf v u, htu]
    | error c u => rw [e, e'] at h; cases h
  | error c t =>
    cases e' : m s.clearD with
    | ok w u => rw [e, e'] at h; cases h
    | error c' u =>
      rw [e, e'] at h
      obtain ⟨rfl, htu⟩ := EStateM.Result.error.inj h
      rw [M.bind_of_error e, M.bind_of_error e']
      exact congrArg (EStateM.Result.error c) htu

/-- A computation that reads the state goes on in a way that does not depend on P.D. -/
protected theorem readState {k : State → M α} (hk : ∀ s, IgnoresD (k s)) (hd : ∀ s, k s.clearD = k s) :
    IgnoresD (readState >>= k) := by
  intro s
  have h := hk s s
  rw [M.bind_of_ok (readState_apply s), M.bind_of_ok (readState_apply s.clearD), hd, h]

protected theorem ite {c : Prop} [Decidable c] {m n : M α} (hm : IgnoresD m) (hn : IgnoresD n) :
    IgnoresD (if c then m else n) := by
  split <;> assumption

end IgnoresD

/-! The bus. No device sees the CPU record. -/

theorem deviceLoad_clearD (d : DeviceId) (o : Nat) (s : State) :
    deviceLoad d o s.clearD = ((deviceLoad d o s).1, (deviceLoad d o s).2.clearD) := by
  cases d <;> rfl

theorem deviceStore_clearD (d : DeviceId) (o : Nat) (v : Byte) (s : State) :
    deviceStore d o v s.clearD = ((deviceStore d o v s).1, (deviceStore d o v s).2.clearD) := by
  cases d with
  | ram =>
    simp only [deviceStore, clearD_ram]
    cases ramStore s.ram o v <;> rfl
  | ppu => rfl
  | io => rfl
  | rom => rfl
  | mapper => rfl

namespace IgnoresD

protected theorem busLoad (a : Word) : IgnoresD (busLoad a) := of_comm fun s => by
  simp only [busLoad, clearD_route]
  cases s.route a with
  | error e => rfl
  | ok place =>
    simp only [deviceLoad_clearD]
    cases deviceLoad place.1 place.2 s with
    | mk reply t => cases reply <;> rfl

protected theorem busStore (a : Word) (v : Byte) : IgnoresD (busStore a v) := of_comm fun s => by
  simp only [busStore, clearD_route]
  cases s.route a with
  | error e => rfl
  | ok place =>
    simp only [deviceStore_clearD]
    cases deviceStore place.1 place.2 v s with
    | mk reply t => cases reply <;> rfl

protected theorem busLoad16 (a : Word) : IgnoresD (busLoad16 a) :=
  .bind (.busLoad a) fun _ => .bind (.busLoad _) fun _ => .pure _

/-! The operands. -/

protected theorem operand8 : IgnoresD operand8 := .readState (fun _ => .busLoad _) fun _ => rfl

protected theorem operand16 : IgnoresD operand16 :=
  .readState
    (fun _ => .ite (.busLoad16 _) (.bind (.busLoad _) fun _ => .bind (.busLoad _) fun _ => .pure _))
    fun _ => rfl

protected theorem penalty (d : Descriptor) (r src : Word) : IgnoresD (penalty d r src) := .update fun _ => rfl

protected theorem indexed (d : Descriptor) (base : Word) (index : Byte) : IgnoresD (indexed d base index) :=
  .bind (.penalty d _ _) fun _ => .pure _

/-- The resolver looks at PC, A, X, Y, OPERAND_WRAP and memory (40_engine.md R72). -/
protected theorem resolve (d : Descriptor) : IgnoresD (resolve d) := by
  unfold Machine.resolve
  cases d.mode with
  | accumulator => exact .readState (fun _ => .pure _) fun _ => rfl
  | immediate => exact .bind .operand8 fun _ => .pure _
  | zeroPage => exact .bind .operand8 fun _ => .pure _
  | zeroPageX => exact .bind .operand8 fun _ => .readState (fun _ => .pure _) fun _ => rfl
  | zeroPageY => exact .bind .operand8 fun _ => .readState (fun _ => .pure _) fun _ => rfl
  | absolute => exact .operand16
  | absoluteX => exact .bind .operand16 fun _ => .readState (fun _ => .indexed d _ _) fun _ => rfl
  | absoluteY => exact .bind .operand16 fun _ => .readState (fun _ => .indexed d _ _) fun _ => rfl
  | indirect => exact .bind .operand16 fun _ => .busLoad16 _
  | indirectX => exact .bind .operand8 fun _ => .readState (fun _ => .busLoad16 _) fun _ => rfl
  | indirectY =>
    exact .bind .operand8 fun _ => .bind (.busLoad16 _) fun _ => .readState (fun _ => .indexed d _ _) fun _ => rfl
  | relative =>
    exact .bind .operand8 fun _ => .readState (fun _ => .bind (.penalty d _ _) fun _ => .pure _) fun _ => rfl
  | implied => exact .raise _
  | illegal => exact .raise _
  | unknown => exact .raise _

protected theorem readOperand (d : Descriptor) : IgnoresD (readOperand d) :=
  .bind (.resolve d) fun _ => .ite (.pure _) (.busLoad _)

/-- A read of the operand, then a change made of it: the shape of the loads, the ALU operations and the compares. -/
protected theorem readThen {f : Byte → State → State} (hf : ∀ m s, f m s.clearD = (f m s).clearD) (d : Descriptor) :
    IgnoresD (readOperand d >>= fun m => update fun s => f m s) :=
  .bind (.readOperand d) fun m => .update (hf m)

protected theorem storeOperand (d : Descriptor) (v : Byte) : IgnoresD (storeOperand d v) :=
  .bind (.resolve d) fun _ => .busStore _ v

/-- A store of a byte taken from the registers A, X and Y. -/
protected theorem storeByte {v : State → Byte} (hv : ∀ s, v s.clearD = v s) (d : Descriptor) :
    IgnoresD (readState >>= fun s => storeOperand d (v s)) :=
  .readState (fun _ => .storeOperand d _) fun s => congrArg (storeOperand d) (hv s)

protected theorem modifyOperand {f : Byte → State → Byte × State} (hf : ByteIgnoresD f) (d : Descriptor) :
    IgnoresD (modifyOperand d f) :=
  .ite
    (.readState (fun _ => .bind (.applyByte hf _) fun _ => .update fun _ => rfl) fun _ => rfl)
    (.bind (.resolve d) fun _ => .bind (.busLoad _) fun _ => .bind (.applyByte hf _) fun _ => .busStore _ _)

/-- A read-modify-write composite: Modify, then a read of the operand and a change made of it (R144). -/
protected theorem modifyThenRead {f : Byte → State → Byte × State} (hf : ByteIgnoresD f) {g : Byte → State → State}
    (hg : ∀ m s, g m s.clearD = (g m s).clearD) (d : Descriptor) :
    IgnoresD (modifyOperand d f >>= fun _ => readOperand d >>= fun m => update fun s => g m s) :=
  .bind (.modifyOperand hf d) fun _ => .readThen hg d

/-! The stack and the transfers of control. -/

protected theorem push (v : Byte) : IgnoresD (push v) :=
  .readState (fun _ => .ite (.raise _) (.bind (.busStore _ v) fun _ => .update fun _ => rfl)) fun _ => rfl

protected theorem pop : IgnoresD pop :=
  .readState (fun _ => .ite (.raise _) (.bind (.update fun _ => rfl) fun _ => .busLoad _)) fun _ => rfl

protected theorem pushWord (w : Word) : IgnoresD (pushWord w) := .bind (.push _) fun _ => .push _

protected theorem popWord : IgnoresD popWord := .bind .pop fun _ => .bind .pop fun _ => .pure _

protected theorem setPc (w : Word) : IgnoresD (update fun s => s.setPc w) := .update fun _ => rfl

/-- The status byte pulled replaces P.D whatever it was; the bits of P that are kept are Break and unused. -/
protected theorem popStatus : IgnoresD popStatus :=
  .bind .pop fun v s => congrArg (fun p => EStateM.Result.ok () (s.setP p).clearD) <| status_ext fun f => by
    cases f <;> simp [flagOf_pulledStatus, State.clearD]

protected theorem returnSeq : IgnoresD returnSeq :=
  .bind .popStatus fun _ => .bind .popWord fun _ => .setPc _

protected theorem branchOp {f : Flag} (hf : f ≠ .decimal) (wanted : Bool) (d : Descriptor) :
    IgnoresD (branchOp f wanted d) :=
  .readState
    (fun _ => .ite (.bind (.update fun _ => rfl) fun _ => .bind (.resolve d) fun _ => .setPc _) (.pure _))
    fun s => by simp only [clearD_flag hf]

protected theorem nopUOp (d : Descriptor) : IgnoresD (nopUOp d) := by
  unfold Machine.nopUOp
  split
  · exact .pure _
  · exact .bind (.resolve d) fun _ => .pure _
  · exact .bind (.resolve d) fun _ => .bind (.busLoad _) fun _ => .pure _

/-- A flag instruction: one flag written, P.D among them (45_stack_flags_system.md R134 to R140). -/
protected theorem flagOp (f : Flag) (b : Bool) (d : Descriptor) : IgnoresD (flagOp f b d) := fun s =>
  congrArg (EStateM.Result.ok ()) <| show (s.setFlag f b).clearD = (s.clearD.setFlag f b).clearD by
    by_cases h : f = .decimal
    · subst h
      rw [clearD_setFlag_decimal, clearD_setFlag_decimal, clearD_clearD]
    · rw [setFlag_clearD h, clearD_clearD]

end IgnoresD

/-! The instructions. -/

/-- The outcome from a state and from that state with P.D clear differ in P.D of the state they carry at most. -/
def InstrIgnoresD (i : Instr) : Prop :=
  ∀ s, mapState State.clearD (exec i s) = mapState State.clearD (exec i s.clearD)

theorem mapState_outcome (r : EStateM.Result Cause State Unit) :
    mapState State.clearD (outcome r) = outcome (clearResult r) := by
  cases r with
  | ok v t => rfl
  | error c t => cases c <;> rfl

theorem InstrIgnoresD.of_handler {i : Instr} {handler : Descriptor → M Unit}
    (hx : ∀ s, exec i s = runInstr i handler s) (h : ∀ d, IgnoresD (handler d)) : InstrIgnoresD i := by
  intro s
  rw [hx, hx]
  cases hd : i.descriptor with
  | none => simp only [runInstr, hd, mapState]
  | some d =>
    rw [runInstr_of_descriptor hd, runInstr_of_descriptor hd, mapState_outcome, mapState_outcome, h d (s.advance d)]
    rfl

/-- Every instruction but the two that push P. -/
theorem instrIgnoresD {i : Instr} (hphp : i ≠ .php) (hbrk : i ≠ .brk) : InstrIgnoresD i := by
  cases i with
  | lda m => exact .of_handler (exec_lda m) fun d => .readThen (by simp) d
  | ldx m => exact .of_handler (exec_ldx m) fun d => .readThen (by simp) d
  | ldy m => exact .of_handler (exec_ldy m) fun d => .readThen (by simp) d
  | sta m => exact .of_handler (exec_sta m) fun d => .storeByte (by simp) d
  | stx m => exact .of_handler (exec_stx m) fun d => .storeByte (by simp) d
  | sty m => exact .of_handler (exec_sty m) fun d => .storeByte (by simp) d
  | tax => exact .of_handler exec_tax fun _ => .update (by simp)
  | tay => exact .of_handler exec_tay fun _ => .update (by simp)
  | txa => exact .of_handler exec_txa fun _ => .update (by simp)
  | tya => exact .of_handler exec_tya fun _ => .update (by simp)
  | tsx => exact .of_handler exec_tsx fun _ => .update (by simp)
  | txs => exact .of_handler exec_txs fun _ => .update (by simp)
  | adc m => exact .of_handler (exec_adc m) fun d => .readThen (by simp) d
  | sbc m => exact .of_handler (exec_sbc m) fun d => .readThen (by simp) d
  | and m => exact .of_handler (exec_and m) fun d => .readThen (by simp) d
  | ora m => exact .of_handler (exec_ora m) fun d => .readThen (by simp) d
  | eor m => exact .of_handler (exec_eor m) fun d => .readThen (by simp) d
  | bit m => exact .of_handler (exec_bit m) fun d => .readThen (by simp) d
  | cmp m => exact .of_handler (exec_cmp m) fun d => .readThen (by simp) d
  | cpx m => exact .of_handler (exec_cpx m) fun d => .readThen (by simp) d
  | cpy m => exact .of_handler (exec_cpy m) fun d => .readThen (by simp) d
  | inc m => exact .of_handler (exec_inc m) fun d => .modifyOperand incByte_ignoresD d
  | dec m => exact .of_handler (exec_dec m) fun d => .modifyOperand decByte_ignoresD d
  | inx => exact .of_handler exec_inx fun _ => .update (by simp)
  | iny => exact .of_handler exec_iny fun _ => .update (by simp)
  | dex => exact .of_handler exec_dex fun _ => .update (by simp)
  | dey => exact .of_handler exec_dey fun _ => .update (by simp)
  | asl m => exact .of_handler (exec_asl m) fun d => .modifyOperand aslByte_ignoresD d
  | lsr m => exact .of_handler (exec_lsr m) fun d => .modifyOperand lsrByte_ignoresD d
  | rol m => exact .of_handler (exec_rol m) fun d => .modifyOperand rolByte_ignoresD d
  | ror m => exact .of_handler (exec_ror m) fun d => .modifyOperand rorByte_ignoresD d
  | jmp m => exact .of_handler (exec_jmp m) fun d => .bind (.resolve d) fun _ => .setPc _
  | jsr => exact .of_handler exec_jsr fun d => .bind (.resolve d) fun _ =>
      .readState (fun _ => .bind (.pushWord _) fun _ => .setPc _) fun _ => rfl
  | rts => exact .of_handler exec_rts fun _ => .bind .popWord fun _ => .setPc _
  | bcc => exact .of_handler exec_bcc fun d => .branchOp (by decide) _ d
  | bcs => exact .of_handler exec_bcs fun d => .branchOp (by decide) _ d
  | beq => exact .of_handler exec_beq fun d => .branchOp (by decide) _ d
  | bne => exact .of_handler exec_bne fun d => .branchOp (by decide) _ d
  | bmi => exact .of_handler exec_bmi fun d => .branchOp (by decide) _ d
  | bpl => exact .of_handler exec_bpl fun d => .branchOp (by decide) _ d
  | bvc => exact .of_handler exec_bvc fun d => .branchOp (by decide) _ d
  | bvs => exact .of_handler exec_bvs fun d => .branchOp (by decide) _ d
  | pha => exact .of_handler exec_pha fun _ => .readState (fun _ => .push _) fun _ => rfl
  | php => exact absurd rfl hphp
  | pla => exact .of_handler exec_pla fun _ => .bind .pop fun _ => .update (by simp)
  | plp => exact .of_handler exec_plp fun _ => .popStatus
  | clc => exact .of_handler exec_clc fun d => .flagOp _ _ d
  | sec => exact .of_handler exec_sec fun d => .flagOp _ _ d
  | cli => exact .of_handler exec_cli fun d => .flagOp _ _ d
  | sei => exact .of_handler exec_sei fun d => .flagOp _ _ d
  | cld => exact .of_handler exec_cld fun d => .flagOp _ _ d
  | sed => exact .of_handler exec_sed fun d => .flagOp _ _ d
  | clv => exact .of_handler exec_clv fun d => .flagOp _ _ d
  | nop => exact .of_handler exec_nop fun _ => .pure _
  | brk => exact absurd rfl hbrk
  | rti => exact .of_handler exec_rti fun _ => .returnSeq
  | nopU op => exact .of_handler (exec_nopU op) fun d => .nopUOp d
  | laxU m => exact .of_handler (exec_laxU m) fun d => .bind (.readThen (by simp) d) fun _ => .update (by simp)
  | saxU m => exact .of_handler (exec_saxU m) fun d => .storeByte (by simp) d
  | sbcU => exact .of_handler exec_sbcU fun d => .readThen (by simp) d
  | dcpU m => exact .of_handler (exec_dcpU m) fun d => .modifyThenRead decByte_ignoresD (by simp) d
  | iscU m => exact .of_handler (exec_iscU m) fun d => .modifyThenRead incByte_ignoresD (by simp) d
  | sloU m => exact .of_handler (exec_sloU m) fun d => .modifyThenRead aslByte_ignoresD (by simp) d
  | rlaU m => exact .of_handler (exec_rlaU m) fun d => .modifyThenRead rolByte_ignoresD (by simp) d
  | sreU m => exact .of_handler (exec_sreU m) fun d => .modifyThenRead lsrByte_ignoresD (by simp) d
  | rraU m => exact .of_handler (exec_rraU m) fun d => .modifyThenRead rorByte_ignoresD (by simp) d
  | illegal op => exact .of_handler (exec_illegal op) fun _ => .raise _

/-- Two states that differ in P.D alone give outcomes that differ in P.D alone. -/
theorem exec_setDecimal {i : Instr} (h : InstrIgnoresD i) (s : State) (b : Bool) :
    mapState State.clearD (exec i (s.setFlag .decimal b)) = mapState State.clearD (exec i s) := by
  rw [h (s.setFlag .decimal b), clearD_setFlag_decimal, ← h s]

/-! The instructions that write P.D, and the two pushes that save it. -/

/-- SED and CLD, and every other flag instruction, leave their flag with the value they name. -/
theorem flagOp_flag {i : Instr} {f : Flag} {b : Bool} {s t : State} (h : runInstr i (flagOp f b) s = .next t) :
    t.flag f = b := by
  obtain ⟨d, -, hd⟩ := runInstr_next h
  cases hd
  simp [State.flag]

theorem pushedBreak_decimal (p : Byte) : flagOf (pushedBreak p) .decimal = flagOf p .decimal := by
  simp [flagOf_pushedBreak]

/-- PHP leaves P with Break and unused set on top of the stack (45_stack_flags_system.md R131). -/
theorem exec_php_top {s t : State} (hram : s.ram.wf Config.ramSize = true) (h : exec .php s = .next t) :
    t.top = pushedBreak s.p := by
  obtain ⟨d, -, hpush⟩ := runInstr_next (exec_php s ▸ h)
  obtain ⟨-, rfl⟩ := push_inv (s := s.advance d) hpush
  exact pushed_top hram _

/-- The interrupt entry answers only where there is room for its three bytes (60_exceptions.md R160). -/
theorem intSeq_room {ret vec : Word} {brk : Bool} {s t : State} (h : intSeq ret brk vec s = .ok () t) :
    3 ≤ s.sp.toNat := by
  by_contra hroom
  have hsp : s.sp = 0x00 ∨ s.sp = 0x01 ∨ s.sp = 0x02 := by bv_omega
  rcases hsp with hsp | hsp | hsp
  · rw [intSeq_error_first hsp] at h; cases h
  · rw [intSeq_error_second hsp] at h; cases h
  · rw [intSeq_error_third hsp] at h; cases h

/-- The status byte is the last of the entry's three pushes (60_exceptions.md R160). -/
theorem intSeq_vecIrq_top {ret : Word} {brk : Bool} {s t : State} (hram : s.ram.wf Config.ramSize = true)
    (h : intSeq ret brk Config.vecIrq s = .ok () t) :
    t.top = if brk then pushedBreak s.p else pushedInterrupt s.p := by
  have hvec : ∀ u : State, u.prg = s.prg → u.banks = s.banks → busLoad16 Config.vecIrq u =
      .ok (cat (s.prg.read (s.banks.prgSize - 1)) (s.prg.read (s.banks.prgSize - 2))) u :=
    fun u hprg hbanks => by rw [busLoad16_vecIrq, hprg, hbanks]
  rw [intSeq_ok (intSeq_room h) hvec] at h
  cases h
  exact pushed_top (pushed_wf (pushed_wf hram _) _) _

/-- BRK leaves P with Break and unused set on top of the stack (45_stack_flags_system.md R142). -/
theorem exec_brk_top {s t : State} (hram : s.ram.wf Config.ramSize = true) (h : exec .brk s = .next t) :
    t.top = pushedBreak s.p := by
  obtain ⟨d, -, hbrk⟩ := runInstr_next (exec_brk s ▸ h)
  exact intSeq_vecIrq_top (s := s.advance d) hram hbrk

/-- Settles O26: every handler but those of PHP and BRK ignores P.D; SED and CLD write their constant, PLP and RTI the
bit of the byte they pop, and PHP and BRK push P.D as it is. -/
theorem decimalNeverAltersAnything : Obligations.DecimalNeverAltersAnything := by
  refine ⟨fun i s b hphp hbrk => exec_setDecimal (instrIgnoresD hphp hbrk) s b,
    fun s t h => flagOp_flag (exec_sed s ▸ h), fun s t h => flagOp_flag (exec_cld s ▸ h),
    fun i s t hi h => ?_, fun s t hram h => ?_, fun s t hram h => ?_⟩
  · rw [State.flag, exec_pull_p hi h, flagOf_pulledStatus]
    rfl
  · rw [exec_php_top hram h, pushedBreak_decimal]
    rfl
  · rw [exec_brk_top hram h, pushedBreak_decimal]
    rfl

end Sys2Proof.Machine
end

section
/-! The routing table region by region (20_memory.md R33), and what it gives for the accesses: an access reaches the one
device the router names (R35, R36), and no offset it gives lies beyond its device (R31, R37). -/

namespace Sys2Proof.Machine

theorem State.route_ram (s : State) {a : Word} (h : a.toNat ≤ 0x1FFF) : s.route a = .ok (.ram, a.toNat % 0x0800) := by
  unfold State.route Machine.route
  rw [if_pos h]

theorem State.route_ppu (s : State) {a : Word} (hlow : 0x2000 ≤ a.toNat) (hhigh : a.toNat ≤ 0x3FFF) :
    s.route a = .ok (.ppu, a.toNat % 8) := by
  unfold State.route Machine.route
  rw [if_neg (by omega), if_pos hhigh]

theorem State.route_io (s : State) {a : Word} (hlow : 0x4000 ≤ a.toNat) (hhigh : a.toNat ≤ 0x4017) :
    s.route a = .ok (.io, a.toNat - 0x4000) := by
  unfold State.route Machine.route
  rw [if_neg (by omega), if_neg (by omega), if_pos hhigh]

theorem Banks.romOffset_ge (b : Banks) : 0x8000 ≤ b.romOffset := by cases b <;> decide

theorem State.route_unmapped (s : State) {a : Word} (hlow : 0x4018 ≤ a.toNat) (hhigh : a.toNat ≤ 0x7FFF) :
    s.route a = .error (.unmapped a) := by
  have hrom := s.banks.romOffset_ge
  unfold State.route Machine.route
  rw [if_neg (by omega), if_neg (by omega), if_neg (by omega), if_neg (by omega), if_neg (by omega)]

theorem State.route_rom (s : State) {a : Word} (h : s.banks.romOffset ≤ a.toNat) :
    s.route a = .ok (.rom, a.toNat - s.banks.romOffset) := by
  have hrom := s.banks.romOffset_ge
  unfold State.route Machine.route
  rw [if_neg (by omega), if_neg (by omega), if_neg (by omega), if_pos h]

/-- The window below the only bank is the mapper's, if there is one. -/
theorem State.route_mapperWindow {s : State} {a : Word} (hone : s.banks = .one) (hlow : 0x8000 ≤ a.toNat)
    (hhigh : a.toNat ≤ 0xBFFF) : s.route a =
      if s.mapper.present then .ok (.mapper, a.toNat - 0x8000) else .error (.mapperMissing a) := by
  have hrom : s.banks.romOffset = 0xC000 := by rw [hone]; rfl
  unfold State.route Machine.route
  rw [if_neg (by omega), if_neg (by omega), if_neg (by omega), if_neg (by omega), if_pos ⟨hone, hlow, hhigh⟩]

theorem Mapper.present_iff {d : Mapper} : d.present = true ↔ d ≠ .absent := by cases d <;> simp [Mapper.present]

/-- Settles O7: the regions of the table, one lemma each; the last two rows are the window with and without a mapper. -/
theorem routerFollowsTheTable : Obligations.RouterFollowsTheTable := by
  refine fun s a => ⟨s.route_ram, s.route_ppu, s.route_io, s.route_unmapped, fun hone h => ?_, fun htwo h => ?_,
    fun hone hlow hhigh hmapper => ?_, fun hone hlow hhigh hmapper => ?_⟩
  · have hoffset : s.banks.romOffset = 0xC000 := by rw [hone]; rfl
    rw [s.route_rom (hoffset ▸ h), hoffset]
  · have hoffset : s.banks.romOffset = 0x8000 := by rw [htwo]; rfl
    rw [s.route_rom (hoffset ▸ h), hoffset]
  · rw [State.route_mapperWindow hone hlow hhigh, hmapper]
    rfl
  · rw [State.route_mapperWindow hone hlow hhigh, if_pos (Mapper.present_iff.mpr hmapper)]

section
variable {s t : State} {a : Word} {v : Byte} {d : DeviceId} {o : Nat}

theorem busLoad_of_unrouted {e : MemoryError} (h : s.route a = .error e) : busLoad a s = .error (.memory e) s := by
  simp only [busLoad, h]

theorem busStore_of_unrouted {e : MemoryError} (h : s.route a = .error e) : busStore a v s = .error (.memory e) s := by
  simp only [busStore, h]

theorem busLoad_of_deviceLoad (h : s.route a = .ok (d, o)) (hd : deviceLoad d o s = (.ok v, t)) :
    busLoad a s = .ok v t := by
  simp only [busLoad, h, hd]

theorem busLoad_of_deviceLoad_error {e : LoadError} (h : s.route a = .ok (d, o))
    (hd : deviceLoad d o s = (.error e, t)) : busLoad a s = .error (.memory (loadFault e a)) t := by
  simp only [busLoad, h, hd]

theorem busStore_of_deviceStore (h : s.route a = .ok (d, o)) (hd : deviceStore d o v s = (.ok (), t)) :
    busStore a v s = .ok () t := by
  simp only [busStore, h, hd]

theorem busStore_of_deviceStore_error {e : StoreError} (h : s.route a = .ok (d, o))
    (hd : deviceStore d o v s = (.error e, t)) : busStore a v s = .error (.memory (storeFault e a)) t := by
  simp only [busStore, h, hd]

/-- A store that RAM or ROM refuses changes nothing (20_memory.md R30, R31). -/
theorem deviceStore_error_unchanged {e : StoreError} (h : deviceStore d o v s = (.error e, t))
    (hd : d = .ram ∨ d = .rom) : t = s := by
  rcases hd with rfl | rfl
  · simp only [deviceStore] at h
    split at h <;> cases h
    rfl
  · cases h
    rfl

end

/-- What an access to one device leaves of the rest of the machine: the CPU record, PRG and every other device. -/
structure SameElsewhere (dev : DeviceId) (s t : State) : Prop where
  registers : getRegisters t = getRegisters s
  cyc : t.cyc = s.cyc
  prg : t.prg = s.prg
  banks : t.banks = s.banks
  ram : dev ≠ .ram → t.ram = s.ram
  ppu : dev ≠ .ppu → t.ppu = s.ppu
  io : dev ≠ .io → t.io = s.io
  mapper : dev ≠ .mapper → t.mapper = s.mapper

theorem deviceLoad_sameElsewhere (d : DeviceId) (o : Nat) (s : State) : SameElsewhere d s (deviceLoad d o s).2 := by
  cases d <;> constructor <;> simp [deviceLoad, getRegisters]

theorem deviceStore_sameElsewhere (d : DeviceId) (o : Nat) (v : Byte) (s : State) :
    SameElsewhere d s (deviceStore d o v s).2 := by
  cases d with
  | ram =>
    simp only [deviceStore]
    split <;> constructor <;> simp [getRegisters]
  | ppu => constructor <;> simp [deviceStore, getRegisters]
  | io => constructor <;> simp [deviceStore, getRegisters]
  | rom => constructor <;> simp [deviceStore]
  | mapper => constructor <;> simp [deviceStore, getRegisters]

/-- Settles O16: the bus follows the router and the device's reply, and either access keeps `SameElsewhere`. -/
theorem accessReachesOneDevice : Obligations.AccessReachesOneDevice := by
  refine fun s a v => ⟨fun e h => ⟨busLoad_of_unrouted h, busStore_of_unrouted h⟩, fun dev o h =>
    ⟨fun _ _ => busLoad_of_deviceLoad h, fun _ _ => busLoad_of_deviceLoad_error h,
      fun _ => busStore_of_deviceStore h, fun _ _ => busStore_of_deviceStore_error h,
      fun _ _ => deviceStore_error_unchanged, fun t ht => ?_, (deviceLoad_sameMemory dev o s).1⟩⟩
  have hsame : SameElsewhere dev s t := by
    rcases ht with rfl | rfl
    · exact deviceLoad_sameElsewhere dev o s
    · exact deviceStore_sameElsewhere dev o v s
  obtain ⟨hregisters, hcyc, hprg, hbanks, hram, hppu, hio, hmapper⟩ := hsame
  exact ⟨hregisters, hcyc, hprg, hbanks, hram, hppu, hio, hmapper⟩

theorem romStore_of_lt {banks : Banks} {o : Nat} (h : o < banks.prgSize) : romStore banks o = .readOnly := by
  rw [romStore, if_pos h]

/-- Settles O9: ROM compares the offset with the size of PRG, and the router's offsets are below it (`route_offset`). -/
theorem romRefusesStores : Obligations.RomRefusesStores := by
  refine fun s o v => ⟨fun h => ?_, fun h => ?_, fun a ha => ?_⟩
  · simp [deviceLoad, deviceStore, romLoad_of_lt h, romStore_of_lt h]
  · simp [deviceLoad, deviceStore, romLoad, romStore, Nat.not_lt.mpr h]
  · have hlt : o < s.banks.prgSize := route_offset ha
    refine ⟨hlt, busStore_of_deviceStore_error (e := .readOnly) ha ?_⟩
    rw [deviceStore, romStore_of_lt hlt]

end Sys2Proof.Machine
end

section
/-! RAM through the bus: a store below 0x2000 writes one cell, which is seen at its four addresses and at no other
(20_memory.md R30, R34, R49, R51), and the 16-bit accesses, which stay in the page of their address (R38, R39). -/

namespace Sys2Proof.Machine

theorem quietByte?_ram (s : State) {a : Word} (h : a.toNat ≤ 0x1FFF) :
    s.quietByte? a = some (s.ram.read (a.toNat % 0x0800)) := by
  simp only [State.quietByte?, s.route_ram h]

theorem busLoad_ram (s : State) {a : Word} (h : a.toNat ≤ 0x1FFF) :
    busLoad a s = .ok (s.ram.read (a.toNat % 0x0800)) s := busLoad_quiet (quietByte?_ram s h)

theorem busStore_ram (s : State) {a : Word} (h : a.toNat ≤ 0x1FFF) (v : Byte) :
    busStore a v s = .ok () (s.setRam (s.ram.write (a.toNat % 0x0800) v)) := by
  apply busStore_quiet
  simp only [State.quietStore?, s.route_ram h]

/-- Settles O8: the addresses of a cell differ by 0x0800, those of a PPU register by 8, which the router's remainder
drops. -/
theorem mirrorsShareOneCell : Obligations.MirrorsShareOneCell := by
  refine ⟨fun s o j k v hram ho hj hk => ?_, fun s k r hk hr => ?_⟩
  · have hmirror : ∀ i < 4, (BitVec.ofNat 16 (o + 0x0800 * i)).toNat = o + 0x0800 * i := fun i hi => by
      rw [BitVec.toNat_ofNat]
      omega
    have hlow : ∀ i < 4, (BitVec.ofNat 16 (o + 0x0800 * i)).toNat ≤ 0x1FFF := fun i hi => by
      rw [hmirror i hi]
      omega
    have hcell : ∀ i < 4, (BitVec.ofNat 16 (o + 0x0800 * i)).toNat % 0x0800 = o := fun i hi => by
      rw [hmirror i hi]
      omega
    refine ⟨?_, _, busStore_ram s (hlow j hj) v, ?_⟩
    · rw [busLoad_ram s (hlow j hj), hcell j hj]
    · rw [busLoad_ram _ (hlow k hk), hcell j hj, hcell k hk, State.setRam_ram, Memory.read_write hram, if_pos rfl]
  · have hnat : (BitVec.ofNat 16 (0x2000 + 8 * k + r)).toNat = 0x2000 + 8 * k + r := by
      rw [BitVec.toNat_ofNat]
      omega
    rw [s.route_ppu (by omega) (by omega), hnat]
    congr 2
    omega

theorem sameCell_iff {s : State} {a b : Word} {place : DeviceId × Nat} (h : s.route a = .ok place) :
    s.sameCell a b ↔ s.route b = .ok place := by
  refine ⟨fun ⟨_, ha, hb⟩ => ?_, fun hb => ⟨place, h, hb⟩⟩
  rw [hb, ← ha, h]

/-- How every byte reads after one cell of RAM is written. -/
theorem quietByte?_setRam_write {s : State} (h : s.ram.wf Config.ramSize = true) (o : Nat) (v : Byte) (b : Word) :
    (s.setRam (s.ram.write o v)).quietByte? b = if s.route b = .ok (.ram, o) then some v else s.quietByte? b := by
  unfold State.quietByte?
  rw [State.setRam_route]
  cases hr : s.route b with
  | error e => rfl
  | ok place =>
    obtain ⟨d, q⟩ := place
    cases d with
    | ram => by_cases hq : q = o <;> simp [Memory.read_write h, hq]
    | ppu => simp
    | io => simp
    | rom => simp
    | mapper => simp

theorem step_quiet {s : State} {op : Byte} (h : s.quietByte? s.pc = some op) : step s = exec (decode op) s := by
  simp only [step, fetch_quiet h]

/-- Settles O10: the store writes one cell of RAM, and the fetch reads that cell at PC with no side effect. -/
theorem storeSeenByLoadsAndFetch : Obligations.StoreSeenByLoadsAndFetch := by
  intro s t a v hram ha hstore
  rw [busStore_ram s ha] at hstore
  cases hstore
  have hread := quietByte?_setRam_write hram (a.toNat % 0x0800) v
  have hcell : ∀ b, s.sameCell a b ↔ s.route b = .ok (.ram, a.toNat % 0x0800) := fun b => sameCell_iff (s.route_ram ha)
  refine ⟨fun b hb => ?_, fun b hb => ?_, fun hpc => step_quiet ?_⟩
  · rw [hread, if_pos ((hcell b).mp hb)]
  · rw [hread, if_neg (mt (hcell b).mpr hb)]
  · rw [State.setRam_pc, hread, if_pos ((hcell _).mp hpc)]

theorem toNat_lo (w : Word) : (lo w).toNat = w.toNat % 0x100 := by
  simp [lo]

theorem toNat_hi (w : Word) : (hi w).toNat = w.toNat / 0x100 := by
  have h := w.isLt
  simp [hi, Nat.shiftRight_eq_div_pow]
  omega

theorem toNat_cat (h l : Byte) : (cat h l).toNat = h.toNat * 0x100 + l.toNat := by
  rw [cat, BitVec.toNat_append, ← Nat.shiftLeft_add_eq_or_of_lt l.isLt, Nat.shiftLeft_eq]

theorem toNat_nextInPage (a : Word) : (nextInPage a).toNat = a.toNat / 0x100 * 0x100 + (a.toNat + 1) % 0x100 := by
  rw [nextInPage, toNat_cat, toNat_hi, BitVec.toNat_add, toNat_lo]
  simp

/-- The next address in the page, with the wrap at its end written out (20_memory.md R38). -/
theorem nextInPage_eq (a : Word) : nextInPage a = if lo a = 0xFF then cat (hi a) 0x00 else a + 1 := by
  split
  · rename_i hlast
    rw [nextInPage, hlast]
    rfl
  · rename_i hlast
    have hlo : (lo a).toNat ≠ 0xFF := fun h => hlast (BitVec.eq_of_toNat_eq h)
    rw [toNat_lo] at hlo
    apply BitVec.eq_of_toNat_eq
    rw [toNat_nextInPage, BitVec.toNat_add]
    simp
    omega

/-- Settles O11: the two loads in sequence, the second at `nextInPage`. -/
theorem load16StaysInPage : Obligations.Load16StaysInPage := by
  refine ⟨nextInPage_eq, fun s a => ⟨fun l t h u hlow hhigh => ?_, fun c t hlow => M.bind_of_error hlow,
    fun l t c u hlow hhigh => ?_⟩⟩
  · rw [busLoad16, M.bind_of_ok hlow, M.bind_of_ok hhigh, M.pure_apply]
  · rw [busLoad16, M.bind_of_ok hlow, M.bind_of_error hhigh]

/-- In RAM the two bytes of a word are two cells (20_memory.md R39). -/
theorem nextInPage_ram {a : Word} (h : a.toNat ≤ 0x1FFF) :
    (nextInPage a).toNat ≤ 0x1FFF ∧ a.toNat % 0x0800 ≠ (nextInPage a).toNat % 0x0800 := by
  rw [toNat_nextInPage]
  omega

/-- Settles O12: the two stores in sequence; the second leaves the cell of the first. -/
theorem store16ThenLoad16 : Obligations.Store16ThenLoad16 := by
  refine ⟨fun s t a v hlow => M.bind_of_ok hlow, fun s a v hram ha => ?_⟩
  obtain ⟨hnext, hcells⟩ := nextInPage_ram ha
  have hram' := Memory.write_wf hram (o := a.toNat % 0x0800) (by simp only [Config.ramSize]; omega) (lo v)
  refine ⟨_, (M.bind_of_ok (busStore_ram s ha _)).trans (busStore_ram _ hnext _), ?_⟩
  rw [busLoad16, M.bind_of_ok (busLoad_ram _ ha), M.bind_of_ok (busLoad_ram _ hnext), M.pure_apply]
  simp [Memory.read_write hram', Memory.read_write hram, hcells]

end Sys2Proof.Machine
end

section
/-! The cartridge and the launch parameters (20_memory.md R28, R51, 70_reset_and_hazards.md R175) under an instruction. -/

namespace Sys2Proof.Machine

/-- What is fixed for the run (20_memory.md R28, 70_reset_and_hazards.md R175): the cartridge, and the three launch
parameters the rules read. -/
def State.cartridge (s : State) : Memory × Banks × Bool × Bool × Nat × Nat :=
  (s.prg, s.banks, s.mapper.present, s.operandWrap, s.intCycles, s.cycReset)

/-- A store to ROM is refused, and a mapper stays installed whatever is stored to it. -/
theorem sameCartridge_stepFrame : StepFrame (fun s t => t.cartridge = s.cartridge) :=
  { Frame.ofEq State.cartridge with
    load := fun d o s => by simp [State.cartridge, deviceLoad_fixed]
    store := fun d o v s => by simp [State.cartridge, deviceStore_fixed]
    cycles := fun _ _ => rfl
    pc := fun _ _ => rfl
    sp := fun _ _ => rfl
    a := fun _ _ => rfl
    x := fun _ _ => rfl
    y := fun _ _ => rfl
    flag := fun _ _ _ _ _ => rfl
    pulled := fun _ _ => rfl }

/-- Settles O29: no elementary change of an instruction writes PRG or a launch parameter, nor do loads and stores install
or remove a mapper. -/
theorem cartridgeIsFixed : Obligations.CartridgeIsFixed := by
  intro i s t h
  simpa [State.cartridge] using exec_keeps sameCartridge_stepFrame h

end Sys2Proof.Machine
end

section
/-! The stack primitives (20_memory.md R40 to R42) and the instructions that push (44_control.md R118,
45_stack_flags_system.md R130, R131, R142). -/

namespace Sys2Proof.Machine

/-- Settles O13: a push that answers had SP above 0x00, so its byte lies above 0x0100. -/
theorem pushAndPop : Obligations.PushAndPop := by
  refine fun s v => ⟨fun h => push_error h v, fun h => push_ok h v, fun t hram h => ?_, pop_error, pop_ok⟩
  obtain ⟨hsp, rfl⟩ := push_inv h
  have hcell : ¬ 0x0100 = 0x0100 + s.sp.toNat := by bv_omega
  rw [State.pushed_ram, Memory.read_write hram, if_neg hcell]

/-- A pop after `n` pops gives one byte more, at the end. -/
theorem popAll_append {n : Nat} {s t u : State} {l : List Byte} {b : Byte} (hn : popAll n s = .ok l t)
    (hpop : pop t = .ok b u) : popAll (n + 1) s = .ok (l ++ [b]) u := by
  induction n generalizing s l with
  | zero =>
    cases hn
    rw [popAll, M.bind_of_ok hpop]
    rfl
  | succ n ih =>
    obtain ⟨c, w, hfirst, hrest⟩ := M.bind_ok_inv hn
    obtain ⟨rest, x, hrest, hpure⟩ := M.bind_ok_inv hrest
    cases hpure
    rw [popAll, M.bind_of_ok hfirst, M.bind_of_ok (ih hrest)]
    rfl

/-- The pushed bytes come back, the last one first, and nothing above the first one is written. -/
theorem pushAll_popAll {bytes : List Byte} {s : State} (hram : s.ram.wf Config.ramSize = true)
    (hroom : bytes.length ≤ s.sp.toNat) :
    ∃ t, pushAll bytes s = .ok () t ∧ (∀ o, 0x0100 + s.sp.toNat < o → t.ram.read o = s.ram.read o) ∧
      popAll bytes.length t = .ok bytes.reverse (t.setSp s.sp) := by
  induction bytes generalizing s with
  | nil => exact ⟨s, rfl, fun _ _ => rfl, rfl⟩
  | cons b rest ih =>
    rw [List.length_cons] at hroom
    have hsp : s.sp ≠ 0x00 := by bv_omega
    have hdec : (s.sp - 1).toNat = s.sp.toNat - 1 := by bv_omega
    obtain ⟨t, hpush, habove, hpop⟩ := ih (s := s.pushed b) (pushed_wf hram b) (by rw [State.pushed_sp]; omega)
    rw [State.pushed_sp, hdec] at habove
    have hinc : s.sp - 1 + 1 = s.sp := by simp
    have hfull : (t.setSp (s.sp - 1)).sp ≠ 0xFF := by
      rw [State.setSp_sp]
      bv_omega
    have hlast : pop (t.setSp (s.sp - 1)) = .ok b (t.setSp s.sp) := by
      rw [pop_ok hfull, State.top, State.setSp_sp, hinc, State.setSp_ram, habove _ (by omega), State.pushed_ram,
        Memory.read_write hram, if_pos rfl]
      rfl
    refine ⟨t, (M.bind_of_ok (push_ok hsp b)).trans hpush, fun o ho => ?_, ?_⟩
    · rw [habove o (by omega), State.pushed_ram, Memory.read_write hram, if_neg (by omega)]
    · rw [List.reverse_cons]
      exact popAll_append hpop hlast

/-- Settles O14, by induction on the pushed bytes (`pushAll_popAll`). -/
theorem pushesThenPopsReverse : Obligations.PushesThenPopsReverse := by
  intro bytes s hram hroom
  obtain ⟨t, hpush, -, hpop⟩ := pushAll_popAll hram hroom
  exact ⟨t, hpush, hpop⟩

/-- From `s` to `t`, `n` bytes are pushed: SP is `n` lower, and no byte but theirs, at `0x0100 + SP` and below, reads
differently. -/
structure StackGrown (n : Nat) (s t : State) : Prop where
  sp : t.sp = s.sp - BitVec.ofNat 8 n
  route : ∀ a, t.route a = s.route a
  ramWf : s.ram.wf Config.ramSize = true → t.ram.wf Config.ramSize = true
  bytes : s.ram.wf Config.ramSize = true →
    ∀ a, (∀ k, k < n → ¬ s.sameCell (stackAddr (s.sp - BitVec.ofNat 8 k)) a) → t.quietByte? a = s.quietByte? a

theorem StackGrown.refl (s : State) : StackGrown 0 s s where
  sp := by simp
  route _ := rfl
  ramWf := id
  bytes _ _ _ := rfl

theorem sameCell_of_route {s t : State} (h : ∀ a, t.route a = s.route a) (a b : Word) :
    t.sameCell a b ↔ s.sameCell a b := by
  simp only [State.sameCell, h]

theorem sub_ofNat_sub_ofNat (v : Byte) (m n : Nat) :
    v - BitVec.ofNat 8 m - BitVec.ofNat 8 n = v - BitVec.ofNat 8 (m + n) := by
  rw [BitVec.ofNat_add, BitVec.sub_sub]

theorem StackGrown.trans {m n : Nat} {s t u : State} (h : StackGrown m s t) (h' : StackGrown n t u) :
    StackGrown (m + n) s u where
  sp := by rw [h'.sp, h.sp, sub_ofNat_sub_ofNat]
  route a := (h'.route a).trans (h.route a)
  ramWf := h'.ramWf ∘ h.ramWf
  bytes hram a ha := by
    rw [h'.bytes (h.ramWf hram) a fun k hk => ?_, h.bytes hram a fun k hk => ha k (by omega)]
    rw [sameCell_of_route h.route, h.sp, sub_ofNat_sub_ofNat]
    exact ha (m + k) (by omega)

theorem StackGrown.pushed (s : State) (v : Byte) : StackGrown 1 s (s.pushed v) where
  sp := rfl
  route _ := rfl
  ramWf hram := pushed_wf hram v
  bytes hram a ha := pushed_quiet hram v (by simpa using ha 0 (by omega))

theorem StackGrown.loadFrame : LoadFrame (StackGrown 0) where
  refl := .refl
  trans h h' := h.trans h'
  load d o s :=
    { sp := by simp [deviceLoad_fixed]
      route := deviceLoad_route d o s
      ramWf := fun hram => by rwa [(deviceLoad_sameMemory d o s).1]
      bytes := fun _ a _ => deviceLoad_quiet d o s a }
  cycles _ s := { StackGrown.refl s with }

theorem StackGrown.setPc (s : State) (v : Word) : StackGrown 0 s (s.setPc v) := { StackGrown.refl s with }

theorem StackGrown.setFlag (s : State) (f : Flag) (b : Bool) : StackGrown 0 s (s.setFlag f b) :=
  { StackGrown.refl s with }

theorem StackGrown.advance (s : State) (d : Descriptor) : StackGrown 0 s (s.advance d) := { StackGrown.refl s with }

/-- A computation that, where it answers, has pushed `n` bytes. -/
def Pushes {α : Type} (n : Nat) (m : M α) : Prop := ∀ s t v, m s = .ok v t → StackGrown n s t

section
variable {α β : Type} {n : Nat}

theorem Pushes.bind {k : Nat} {m : M α} {f : α → M β} (hm : Pushes n m) (hf : ∀ v, Pushes k (f v)) :
    Pushes (n + k) (m >>= f) := by
  intro s u w h
  obtain ⟨v, t, hfirst, hrest⟩ := M.bind_ok_inv h
  exact (hm s t v hfirst).trans (hf v t u w hrest)

theorem Pushes.of_keeps {m : M α} (h : Keeps (StackGrown 0) m) : Pushes 0 m := fun _ _ _ e => h.of_ok e

/-- What pushes nothing before the pushes does not count. -/
theorem Pushes.keeps_bind {m : M α} {f : α → M β} (hm : Keeps (StackGrown 0) m) (hf : ∀ v, Pushes n (f v)) :
    Pushes n (m >>= f) := by
  simpa using Pushes.bind (.of_keeps hm) hf

/-- What pushes nothing after the pushes does not count. -/
theorem Pushes.bind_keeps {m : M α} {f : α → M β} (hm : Pushes n m) (hf : ∀ v, Keeps (StackGrown 0) (f v)) :
    Pushes n (m >>= f) := Pushes.bind hm fun v => .of_keeps (hf v)

theorem Pushes.readState_bind {f : State → M β} (hf : ∀ s, Pushes n (f s)) : Pushes n (readState >>= f) :=
  .keeps_bind (.readState StackGrown.loadFrame.toFrame) hf

theorem Pushes.push (v : Byte) : Pushes 1 (push v) := by
  intro s t _ h
  obtain ⟨-, rfl⟩ := push_inv h
  exact .pushed s v

theorem Pushes.pushWord (w : Word) : Pushes 2 (pushWord w) := .bind (.push _) fun _ => .push _

/-- The interrupt entry pushes three bytes (60_exceptions.md R160). -/
theorem Pushes.intSeq (ret : Word) (brk : Bool) (vec : Word) : Pushes 3 (intSeq ret brk vec) :=
  have h := StackGrown.loadFrame
  .bind (.pushWord ret) fun _ => .readState_bind fun _ => .bind_keeps (.push _) fun _ =>
    .bind h.toFrame (.update fun s => .setFlag s _ _) fun _ => .bind h.toFrame (.busLoad16 h vec) fun _ =>
      .update fun s => .setPc s _

end

theorem StackGrown.of_runInstr {n : Nat} {i : Instr} {handler : Descriptor → M Unit} (hh : ∀ d, Pushes n (handler d))
    {s t : State} (h : runInstr i handler s = .next t) : StackGrown n s t := by
  obtain ⟨d, -, hd⟩ := runInstr_next h
  simpa using (StackGrown.advance s d).trans (hh d _ _ _ hd)

/-- The four instructions that push, their handlers read line by line. -/
theorem exec_stackGrown {i : Instr} {s t : State} (h : exec i s = .next t) (hi : 0 < i.pushes) :
    StackGrown i.pushes s t := by
  cases i with
  | pha => exact .of_runInstr (fun _ => .readState_bind fun _ => .push _) (exec_pha s ▸ h)
  | php => exact .of_runInstr (fun _ => .readState_bind fun _ => .push _) (exec_php s ▸ h)
  | jsr =>
    exact .of_runInstr (fun d => .keeps_bind (.resolve StackGrown.loadFrame d) fun _ => .readState_bind fun _ =>
      .bind_keeps (.pushWord _) fun _ => .update fun s => .setPc s _) (exec_jsr s ▸ h)
  | brk => exact .of_runInstr (fun _ => .readState_bind fun _ => .intSeq _ _ _) (exec_brk s ▸ h)
  | _ => exact absurd hi (by simp [Instr.pushes])

/-- Settles O32: each pushing instruction is its pushes and changes that keep every byte as it reads. -/
theorem pushingFormsKeepOtherBytes : Obligations.PushingFormsKeepOtherBytes := by
  intro i s t h hi hram
  have hgrown := exec_stackGrown h hi
  exact ⟨hgrown.sp, hgrown.bytes hram⟩

end Sys2Proof.Machine
end

section
/-! The biased register bit by bit (20_memory.md R43): every operation is a store or a write of bit `i` in the three
bytes of the register. -/

namespace Sys2Proof.Machine

theorem byte_ext {v w : Byte} (h : ∀ j : Fin 8, getBit v j = getBit w j) : v = w :=
  BitVec.eq_of_getLsbD_eq fun j hj => h ⟨j, hj⟩

theorem getBit_and (v w : Byte) (j : Nat) : getBit (v &&& w) j = (getBit v j && getBit w j) := BitVec.getLsbD_and

theorem getBit_putBit_fin (v : Byte) (i j : Fin 8) (b : Bool) :
    getBit (putBit v i b) j = if i = j then b else getBit v j := by
  rw [getBit_putBit _ _ _ _ i.isLt]
  simp only [Fin.val_inj]

theorem getBit_setBit (v : Byte) (i j : Fin 8) : getBit (setBit v i) j = (i == j || getBit v j) := by
  have hput : setBit v i = putBit v i true := rfl
  rw [hput, getBit_putBit_fin]
  by_cases hij : i = j <;> simp [hij]

theorem getBit_clearBit (v : Byte) (i j : Fin 8) : getBit (clearBit v i) j = (i != j && getBit v j) := by
  have hput : clearBit v i = putBit v i false := rfl
  rw [hput, getBit_putBit_fin]
  by_cases hij : i = j <;> simp [hij]

/-- What the constraint does to one bit: a forced bit takes its bias, any other bit stays. -/
theorem BiasedReg.getBit_constrain (r : BiasedReg) (v : Byte) (j : Fin 8) : getBit (r.constrain v) j =
    if getBit r.force1 j then true else if getBit r.force0 j then false else getBit v j := by
  have hor : getBit (r.constrain v) j = (getBit v j && !getBit r.force0 j || getBit r.force1 j) := by
    simp [getBit, BiasedReg.constrain]
  rw [hor]
  cases getBit r.force1 j <;> cases getBit r.force0 j <;> simp

theorem BiasedReg.setBit_eq_store (r : BiasedReg) (i : Fin 8) : r.setBit i = r.store (Machine.setBit r.value i) := rfl

theorem BiasedReg.clearBit_eq_store (r : BiasedReg) (i : Fin 8) :
    r.clearBit i = r.store (Machine.clearBit r.value i) := rfl

theorem BiasedReg.bias_eq (r : BiasedReg) (i : Fin 8) (b : Bool) :
    r.bias i b = ⟨putBit r.value i b, putBit r.force0 i !b, putBit r.force1 i b⟩ := by
  cases b <;> rfl

theorem BiasedReg.getBit_store (r : BiasedReg) (v : Byte) (j : Fin 8) : getBit (r.store v).load j =
    if getBit r.force1 j then true else if getBit r.force0 j then false else getBit v j := r.getBit_constrain v j

/-- A bias forces its bit one way only, and the stored value obeys it at once. -/
theorem BiasedReg.bias_wf {r : BiasedReg} (h : r.wf = true) (i : Fin 8) (b : Bool) : (r.bias i b).wf = true := by
  obtain ⟨hforce, hvalue⟩ := r.wf_iff.mp h
  rw [BiasedReg.bias_eq]
  refine (BiasedReg.wf_iff _).mpr ⟨byte_ext fun j => ?_, byte_ext fun j => ?_⟩
  · have hj : getBit (r.force0 &&& r.force1) j = getBit 0 j := by rw [hforce]
    simp only [getBit_and, getBit_putBit_fin] at hj ⊢
    by_cases hij : i = j
    · cases b <;> simp [hij, getBit]
    · simpa only [hij, if_false] using hj
  · have hj : getBit (r.constrain r.value) j = getBit r.value j := by rw [hvalue]
    simp only [BiasedReg.getBit_constrain, getBit_putBit_fin] at hj ⊢
    by_cases hij : i = j
    · cases b <;> simp [hij]
    · simpa only [hij, if_false] using hj

/-- Settles O15: set and clear are stores, whose bits `getBit_constrain` gives; a bias writes one bit of each byte. -/
theorem biasedBitsReadTheirBias : Obligations.BiasedBitsReadTheirBias := by
  refine ⟨fun r v i j b h => ⟨r.getBit_store v j, ?_, ?_, ?_, ?_, ?_, rfl, rfl, rfl, rfl, rfl, rfl,
    BiasedReg.store_wf h v, BiasedReg.store_wf h _, BiasedReg.store_wf h _, BiasedReg.bias_wf h i b⟩, by decide⟩
  · rw [BiasedReg.setBit_eq_store, BiasedReg.getBit_store, getBit_setBit]
  · rw [BiasedReg.clearBit_eq_store, BiasedReg.getBit_store, getBit_clearBit]
  · rw [BiasedReg.bias_eq]
    exact getBit_putBit_fin _ i j b
  · rw [BiasedReg.bias_eq, getBit_putBit_fin]
  · rw [BiasedReg.bias_eq, getBit_putBit_fin]

end Sys2Proof.Machine
end

section
/-! A whole instruction as a list of bytes (30_encoding.md R53, R65). An operand is any list of at most two bytes, and
its length is what the opcode decides; the round trips and the refusals follow from the two cases of the length. -/

namespace Sys2Proof

theorem Mode.length_bounds (m : Mode) : 1 ≤ m.length ∧ m.length ≤ 3 := by
  cases m <;> decide

theorem lookup_length_bounds (op : Byte) : 1 ≤ (lookup op).length ∧ (lookup op).length ≤ 3 :=
  lookup_length op ▸ (lookup op).mode.length_bounds

@[simp] theorem OperandBytes.length_toList (o : OperandBytes) : o.toList.length = o.count := by
  cases o <;> rfl

theorem OperandBytes.exists_toList_eq {l : List Byte} (h : l.length ≤ 2) : ∃ o : OperandBytes, o.toList = l :=
  match l, h with
  | [], _ => ⟨.none, rfl⟩
  | [b1], _ => ⟨.one b1, rfl⟩
  | [b1, b2], _ => ⟨.two b1 b2, rfl⟩

theorem Encoded.wf_iff {e : Encoded} :
    e.wf = true ↔ e.instr.wf = true ∧ e.operand.count + 1 = e.instr.mode.length := by
  simp [Encoded.wf]

/-- The opcode decides the format: an instruction decoded from it is well formed with that many operand bytes. -/
theorem Encoded.wf_decode_iff {op : Byte} {o : OperandBytes} :
    (Encoded.mk (decode op) o).wf = true ↔ o.count + 1 = (lookup op).length := by
  rw [Encoded.wf_iff, lookup_length, lookup_mode]
  exact and_iff_right (decode_wf op)

/-- Every well-formed instruction is one decoded from an opcode. -/
theorem Encoded.eq_decode_of_wf {e : Encoded} (h : e.wf = true) : ∃ op, e = ⟨decode op, e.operand⟩ := by
  obtain ⟨op, -, hdecode⟩ := opcode_roundTrip e.instr (Encoded.wf_iff.mp h).1
  exact ⟨op, by rw [hdecode]⟩

theorem encode_decode {op : Byte} {o : OperandBytes} (h : o.count + 1 = (lookup op).length) :
    encode ⟨decode op, o⟩ = op :: o.toList := by
  simp [encode, Encoded.wf_decode_iff.mpr h, opcode_decode]

/-- The opcode's operand bytes are taken, and what follows them is handed back. -/
theorem decodeBytes_operand {op : Byte} {o : OperandBytes} (h : o.count + 1 = (lookup op).length) (rest : List Byte) :
    decodeBytes (op :: (o.toList ++ rest)) = .ok (⟨decode op, o⟩, rest) := by
  cases o <;> simp [decodeBytes, ← h, OperandBytes.count, OperandBytes.toList]

theorem decodeBytes_of_short {op : Byte} {bytes : List Byte} (h : bytes.length + 1 < (lookup op).length) :
    decodeBytes (op :: bytes) = .error (.truncated op) := by
  simp only [decodeBytes]
  split
  case h_1 => omega
  case h_2 =>
    simp only [List.length_cons] at h
    omega
  case h_3 =>
    simp only [List.length_cons] at h
    omega
  case h_4 => rfl

/-- A list with enough bytes starts with the operand of its opcode. -/
theorem exists_operand {op : Byte} {bytes : List Byte} (h : (lookup op).length ≤ bytes.length + 1) :
    ∃ o : OperandBytes, o.toList = bytes.take ((lookup op).length - 1) ∧ o.count + 1 = (lookup op).length := by
  obtain ⟨hpos, hle⟩ := lookup_length_bounds op
  have htake : (bytes.take ((lookup op).length - 1)).length = (lookup op).length - 1 :=
    List.length_take_of_le (by omega)
  obtain ⟨o, ho⟩ := OperandBytes.exists_toList_eq (htake.trans_le (by omega))
  rw [← ho, OperandBytes.length_toList] at htake
  exact ⟨o, ho, by omega⟩

theorem decodeBytes_of_enough {op : Byte} {bytes : List Byte} (h : (lookup op).length ≤ bytes.length + 1) :
    ∃ o : OperandBytes, o.toList = bytes.take ((lookup op).length - 1) ∧ o.count + 1 = (lookup op).length ∧
      decodeBytes (op :: bytes) = .ok (⟨decode op, o⟩, bytes.drop ((lookup op).length - 1)) := by
  obtain ⟨o, ho, hcount⟩ := exists_operand h
  refine ⟨o, ho, hcount, ?_⟩
  rw [← decodeBytes_operand hcount, ho, List.take_append_drop]

/-- Settles O4: a well-formed instruction is the decoded opcode with its operand, which the decoder takes off again. -/
theorem decodeInvertsEncode : Obligations.DecodeInvertsEncode := by
  intro e rest hwf
  obtain ⟨op, he⟩ := Encoded.eq_decode_of_wf hwf
  rw [he] at hwf ⊢
  have hcount := Encoded.wf_decode_iff.mp hwf
  rw [encode_decode hcount, List.cons_append, decodeBytes_operand hcount]

/-- Settles O5: what the decoder read is the opcode and the operand that the list starts with. -/
theorem encodeInvertsDecode : Obligations.EncodeInvertsDecode := by
  intro bytes rest e hdecode
  cases bytes with
  | nil => cases hdecode
  | cons op bytes =>
    rcases Nat.lt_or_ge (bytes.length + 1) (lookup op).length with hshort | henough
    · rw [decodeBytes_of_short hshort] at hdecode
      cases hdecode
    · obtain ⟨o, ho, hcount, hok⟩ := decodeBytes_of_enough henough
      rw [hok] at hdecode
      cases hdecode
      refine ⟨Encoded.wf_decode_iff.mpr hcount, ?_⟩
      rw [encode_decode hcount, ho, List.cons_append, List.take_append_drop]

/-- Settles O6: the two cases of the length, `decodeBytes_of_short` and `decodeBytes_of_enough`. -/
theorem decodeRefusesOnlyShortLists : Obligations.DecodeRefusesOnlyShortLists := by
  refine ⟨rfl, fun op rest => ⟨decodeBytes_of_short, fun henough => ?_⟩⟩
  obtain ⟨o, ho, -, hok⟩ := decodeBytes_of_enough henough
  exact ⟨⟨decode op, o⟩, hok, rfl, ho⟩

/-- Settles O1, by evaluation of the decoder on the nine words. -/
theorem sampleWordsDecode : Obligations.SampleWordsDecode := by
  unfold Obligations.SampleWordsDecode
  decide +kernel

/-- No row of the merged table has the tag `unknown` (30_encoding.md R55): one kernel evaluation over the 256
opcodes. -/
theorem lookup_mode_ne_unknown : ∀ op : Byte, (lookup op).mode ≠ .unknown := by decide +kernel

/-- Settles O2: the length is that of the mode's format (`lookup_length`), and the three lists are the modes of each. -/
theorem descriptorLengthIsItsFormats : Obligations.DescriptorLengthIsItsFormats := by
  intro op
  rw [lookup_length]
  refine ⟨lookup_opcode op, lookup_mode_ne_unknown op, ?_⟩
  generalize (lookup op).mode = m
  cases m <;> decide

end Sys2Proof
end

section
/-! The opcodes in neither table (30_encoding.md R63, 46_unofficial.md R155). -/

namespace Sys2Proof

/-- The Illegal instructions of the decoder are the well-formed ones, by the round trip of opcodes. -/
theorem decode_eq_illegal_iff {op : Byte} : decode op = .illegal op ↔ op ∈ illegalOpcodes := by
  have hwf : (Instr.illegal op).wf = true ↔ op ∈ illegalOpcodes := List.contains_iff_mem
  rw [← hwf]
  refine ⟨fun h => h ▸ decode_wf op, fun h => ?_⟩
  obtain ⟨op', hop, hdecode⟩ := opcode_roundTrip (.illegal op) h
  have hsame : op' = op := by
    simpa [Instr.opcode, hwf.mp h] using hop.symm
  exact hsame ▸ hdecode

/-- No row of either table is Illegal, so an Illegal opcode has the default row (30_encoding.md R58): one kernel
evaluation over the 256 opcodes. -/
theorem lookupRow_illegal : ∀ op : Byte, decode op = .illegal op → lookupRow op = illegalRow op := by decide +kernel

end Sys2Proof

namespace Sys2Proof.Machine

/-- The advance past one byte that costs no cycle moves PC only. -/
theorem advance_illegalRow (s : State) (op : Byte) : s.advance (illegalRow op).descriptor = s.setPc (s.pc + 1) := rfl

theorem exec_illegal_of_decode {op : Byte} (h : decode op = .illegal op) (s : State) :
    exec (.illegal op) s = .fault (.illegal (.noHandler op) (s.setPc (s.pc + 1))) := by
  have hdescriptor : (Instr.illegal op).descriptor = some (illegalRow op).descriptor := by
    rw [← h, descriptor_decode, lookup, lookupRow_illegal op h]
  rw [exec_illegal, runInstr_of_descriptor hdescriptor, advance_illegalRow]
  rfl

/-- Settles O3: an Illegal opcode has the default row, whose handler raises NoHandler on the advanced state. -/
theorem illegalOpcodesFault : Obligations.IllegalOpcodesFault := by
  refine ⟨fun op => (List.Perm.mem_iff (by decide)).trans decode_eq_illegal_iff.symm, fun op h =>
    ⟨?_, exec_illegal_of_decode h, fun s hop => ?_⟩⟩
  · rw [lookup, lookupRow_illegal op h]
    rfl
  · rw [step_quiet hop, h, exec_illegal_of_decode h]

end Sys2Proof.Machine
end

section
/-! What a single bus access keeps, for a frame that allows a device's own change but no cycle of penalty, or that allows
a store at one address only. -/

namespace Sys2Proof.Machine

variable {R : State → State → Prop}

theorem Keeps.busLoad_of_frame (h : Frame R) (hload : ∀ d o s, R s (deviceLoad d o s).2) {a : Word} :
    Keeps R (Machine.busLoad a) := by
  intro s
  cases e : Machine.busLoad a s with
  | ok v t =>
    obtain ⟨d, o, -, rfl⟩ := busLoad_state.1 v t e
    exact hload d o s
  | error c t =>
    rcases busLoad_state.2 c t e with rfl | ⟨d, o, -, rfl⟩
    · exact h.refl _
    · exact hload d o s

theorem Keeps.busStore_of_frame (h : Frame R) {a : Word} {v : Byte}
    (hstore : ∀ d o s, s.route a = .ok (d, o) → R s (deviceStore d o v s).2) : Keeps R (Machine.busStore a v) := by
  intro s
  cases e : Machine.busStore a v s with
  | ok u t =>
    obtain ⟨d, o, hroute, rfl⟩ := busStore_state.1 u t e
    exact hstore d o s hroute
  | error c t =>
    rcases busStore_state.2 c t e with rfl | ⟨d, o, hroute, rfl⟩
    · exact h.refl _
    · exact hstore d o s hroute

end Sys2Proof.Machine
end

section
/-! The fetch (40_engine.md R68): the byte at PC decides the instruction a step runs, and a fault of its load is the
step's. -/

namespace Sys2Proof.Machine

/-- The decoder reads an instruction's opcode back. -/
theorem decode_of_opcode {i : Instr} {op : Byte} (h : i.opcode = some op) : decode op = i := by
  obtain ⟨-, -, hdecode, -⟩ := descriptor_facts (descriptor_eq_some.mpr ⟨op, h, rfl⟩)
  rwa [lookup_opcode] at hdecode

section
variable {s t : State} {op : Byte} {c : Cause}

theorem fetch_of_busLoad (h : busLoad s.pc s = .ok op t) : fetch s = .ok (decode op) t := by
  rw [fetch, M.bind_of_ok (readState_apply s), M.bind_of_ok h, M.pure_apply]

theorem fetch_of_error (h : busLoad s.pc s = .error c t) : fetch s = .error c t := by
  rw [fetch, M.bind_of_ok (readState_apply s), M.bind_of_error h]

theorem step_of_busLoad (h : busLoad s.pc s = .ok op t) : step s = exec (decode op) t := by
  simp only [step, fetch_of_busLoad h]

theorem step_of_error (h : busLoad s.pc s = .error c t) : step s = .fault (c.toFault t) := by
  simp only [step, fetch_of_error h]

theorem stepDescriptor_of_busLoad (h : busLoad s.pc s = .ok op t) : stepDescriptor s = some (lookup op) := by
  simp only [stepDescriptor, h]

end

/-- Settles O17: the fetch keeps PC, and what is no control transfer leaves PC past the instruction (O28). -/
theorem stepRunsTheDecodedInstruction : Obligations.StepRunsTheDecodedInstruction := by
  refine ⟨fun s i op hop hquiet => ?_, fun s t op hload => ⟨step_of_busLoad hload, decode_wf op, descriptor_decode op,
    stepDescriptor_of_busLoad hload, fun u hstep htransfer => ?_⟩⟩
  · rw [step_quiet hquiet, decode_of_opcode hop]
  · rw [step_of_busLoad hload] at hstep
    obtain ⟨-, -, -, -, hpc⟩ := registersChangeOnlyByTheirWriters (decode op) t u hstep
    have hkept : t.pc = s.pc := congrArg Registers.pc (busLoad_registers hload)
    rw [hpc htransfer, hkept, lookup_length, lookup_mode]

/-- What a fault of the fetch leaves as it was (60_exceptions.md R157): the registers, the cycle counter and RAM. -/
def State.cpuAndRam (s : State) : Registers × Nat × Memory := (getRegisters s, s.cyc, s.ram)

/-- A load, also one that faults, changes a device at most. -/
theorem busLoad_cpuAndRam (a : Word) : Keeps (fun s t => t.cpuAndRam = s.cpuAndRam) (busLoad a) :=
  .busLoad_of_frame (.ofEq State.cpuAndRam) fun d o s => by simp [State.cpuAndRam, getRegisters, deviceLoad_fixed]

/-- Settles O18: the faulting load keeps `cpuAndRam`, and the router refuses the two ranges before any device sees the
access (20_memory.md R33). -/
theorem fetchFaultLeavesRegisters : Obligations.FetchFaultLeavesRegisters := by
  refine ⟨fun s t c h => ⟨step_of_error h, by simpa [State.cpuAndRam] using (busLoad_cpuAndRam s.pc).of_error h⟩,
    fun s hlow hhigh => step_of_error (busLoad_of_unrouted (s.route_unmapped hlow hhigh)),
    fun s hone habsent hlow hhigh => step_of_error (busLoad_of_unrouted ?_)⟩
  rw [State.route_mapperWindow hone hlow hhigh, habsent]
  rfl

end Sys2Proof.Machine
end

section
/-! The cycles of a step (40_engine.md R70, R71): every operation but the resolver and a taken branch keeps CYC, and the
resolver adds one penalty at most, of a flagged descriptor only. -/

namespace Sys2Proof.Machine

variable {α β : Type}

/-! The operations that add no cycle. -/

/-- The cycle counter is the same. -/
def SameCyc (s t : State) : Prop := t.cyc = s.cyc

theorem SameCyc.frame : Frame SameCyc := .ofEq State.cyc

theorem deviceLoad_sameCyc (d : DeviceId) (o : Nat) (s : State) : SameCyc s (deviceLoad d o s).2 :=
  (deviceLoad_sameElsewhere d o s).cyc

theorem deviceStore_sameCyc (d : DeviceId) (o : Nat) (v : Byte) (s : State) : SameCyc s (deviceStore d o v s).2 :=
  (deviceStore_sameElsewhere d o v s).cyc

/-- A computation that leaves the cycle counter as it is, whether it answers or raises. -/
def KeepsCyc (m : M α) : Prop := Keeps SameCyc m

namespace KeepsCyc

protected theorem pure (v : α) : KeepsCyc (pure v : M α) := Keeps.pure SameCyc.frame v

protected theorem raise (c : Cause) : KeepsCyc (raise c : M α) := Keeps.raise SameCyc.frame c

protected theorem update {f : State → State} (h : ∀ s, (f s).cyc = s.cyc) : KeepsCyc (update f) := h

protected theorem applyByte {f : Byte → State → Byte × State} (h : ∀ v s, (f v s).2.cyc = s.cyc) (v : Byte) :
    KeepsCyc (applyByte f v) := h v

protected theorem bind {m : M α} {f : α → M β} (hm : KeepsCyc m) (hf : ∀ v, KeepsCyc (f v)) : KeepsCyc (m >>= f) :=
  Keeps.bind SameCyc.frame hm hf

protected theorem readState_bind {f : State → M β} (hf : ∀ s, KeepsCyc (f s)) : KeepsCyc (readState >>= f) :=
  Keeps.bind SameCyc.frame (Keeps.readState SameCyc.frame) hf

protected theorem ite {c : Prop} [Decidable c] {m n : M α} (hm : KeepsCyc m) (hn : KeepsCyc n) :
    KeepsCyc (if c then m else n) := Keeps.ite hm hn

protected theorem busLoad (a : Word) : KeepsCyc (busLoad a) := .busLoad_of_frame SameCyc.frame deviceLoad_sameCyc

protected theorem busStore (a : Word) (v : Byte) : KeepsCyc (busStore a v) :=
  .busStore_of_frame SameCyc.frame fun d o s _ => deviceStore_sameCyc d o v s

protected theorem busLoad16 (a : Word) : KeepsCyc (busLoad16 a) :=
  .bind (.busLoad a) fun _ => .bind (.busLoad _) fun _ => .pure _

protected theorem operand8 : KeepsCyc operand8 := .readState_bind fun _ => .busLoad _

protected theorem operand16 : KeepsCyc operand16 :=
  .readState_bind fun _ => .ite (.busLoad16 _) (.bind (.busLoad _) fun _ => .bind (.busLoad _) fun _ => .pure _)

protected theorem push (v : Byte) : KeepsCyc (push v) :=
  .readState_bind fun _ => .ite (.raise _) (.bind (.busStore _ v) fun _ => .update fun _ => rfl)

protected theorem pop : KeepsCyc pop :=
  .readState_bind fun _ => .ite (.raise _) (.bind (.update fun _ => rfl) fun _ => .busLoad _)

protected theorem pushWord (w : Word) : KeepsCyc (pushWord w) := .bind (.push _) fun _ => .push _

protected theorem popWord : KeepsCyc popWord := .bind .pop fun _ => .bind .pop fun _ => .pure _

protected theorem setPc (w : Word) : KeepsCyc (update fun s => s.setPc w) := .update fun _ => rfl

/-- The interrupt entry itself adds no cycle; `TakeInterrupt` does after it (60_exceptions.md R160, R161). -/
protected theorem intSeq (ret : Word) (brk : Bool) (vec : Word) : KeepsCyc (intSeq ret brk vec) :=
  .bind (.pushWord ret) fun _ => .readState_bind fun _ => .bind (.push _) fun _ => .bind (.update fun _ => rfl) fun _ =>
    .bind (.busLoad16 vec) fun _ => .setPc _

protected theorem popStatus : KeepsCyc popStatus := .bind .pop fun _ => .update fun _ => rfl

protected theorem returnSeq : KeepsCyc returnSeq := .bind .popStatus fun _ => .bind .popWord fun _ => .setPc _

end KeepsCyc

/-! The resolver and the operations made of it. -/

/-- The cycles one resolution can add: one, of a flagged descriptor only (40_engine.md R71). -/
def penaltyLimit (d : Descriptor) : Nat := if d.canCrossPage then 1 else 0

theorem penaltyCycles_le_limit (d : Descriptor) (r src : Word) : penaltyCycles d r src ≤ penaltyLimit d := by
  unfold penaltyCycles penaltyLimit
  by_cases hflag : d.canCrossPage
  · simp only [hflag, true_and, if_true]
    split <;> omega
  · simp [hflag]

/-- A computation that, where it answers, has added at most `n` cycles and taken none away. -/
def AddsCycles (n : Nat) (m : M α) : Prop := ∀ s t v, m s = .ok v t → s.cyc ≤ t.cyc ∧ t.cyc ≤ s.cyc + n

namespace AddsCycles

variable {n k : Nat}

theorem of_keeps {m : M α} (h : KeepsCyc m) : AddsCycles n m := by
  intro s t v e
  have hcyc : t.cyc = s.cyc := Keeps.of_ok h e
  omega

protected theorem mono {m : M α} (h : AddsCycles n m) (hle : n ≤ k) : AddsCycles k m := fun s t v e =>
  (h s t v e).imp_right fun hupper => by omega

protected theorem bind {m : M α} {f : α → M β} (hm : AddsCycles n m) (hf : ∀ v, AddsCycles k (f v)) :
    AddsCycles (n + k) (m >>= f) := by
  intro s u w e
  obtain ⟨v, t, hfirst, hrest⟩ := M.bind_ok_inv e
  have h := hm s t v hfirst
  have h' := hf v t u w hrest
  omega

/-- Only the second part adds cycles. -/
protected theorem keeps_bind {m : M α} {f : α → M β} (hm : KeepsCyc m) (hf : ∀ v, AddsCycles n (f v)) :
    AddsCycles n (m >>= f) := by
  simpa using AddsCycles.bind (of_keeps (n := 0) hm) hf

/-- Only the first part adds cycles. -/
protected theorem bind_keeps {m : M α} {f : α → M β} (hm : AddsCycles n m) (hf : ∀ v, KeepsCyc (f v)) :
    AddsCycles n (m >>= f) := AddsCycles.bind (k := 0) hm fun v => of_keeps (hf v)

protected theorem readState_bind {f : State → M β} (hf : ∀ s, AddsCycles n (f s)) : AddsCycles n (readState >>= f) :=
  .keeps_bind (Keeps.readState SameCyc.frame) hf

protected theorem ite {c : Prop} [Decidable c] {m m' : M α} (hm : AddsCycles n m) (hm' : AddsCycles n m') :
    AddsCycles n (if c then m else m') := by
  split <;> assumption

protected theorem addCycles (n : Nat) : AddsCycles n (update fun s => s.addCycles n) := by
  intro s t v e
  cases e
  rw [State.addCycles_cyc]
  omega

variable (d : Descriptor)

protected theorem penalty (r src : Word) : AddsCycles (penaltyLimit d) (penalty d r src) :=
  (AddsCycles.addCycles _).mono (penaltyCycles_le_limit d r src)

protected theorem indexed (base : Word) (index : Byte) : AddsCycles (penaltyLimit d) (indexed d base index) :=
  .bind_keeps (.penalty d _ _) fun _ => .pure _

/-- A resolution adds the penalty of its mode and nothing else (40_engine.md R71, R72). -/
protected theorem resolve : AddsCycles (penaltyLimit d) (resolve d) := by
  unfold Machine.resolve
  cases d.mode with
  | accumulator => exact .of_keeps (.readState_bind fun _ => .pure _)
  | immediate => exact .of_keeps (.bind .operand8 fun _ => .pure _)
  | zeroPage => exact .of_keeps (.bind .operand8 fun _ => .pure _)
  | zeroPageX => exact .of_keeps (.bind .operand8 fun _ => .readState_bind fun _ => .pure _)
  | zeroPageY => exact .of_keeps (.bind .operand8 fun _ => .readState_bind fun _ => .pure _)
  | absolute => exact .of_keeps .operand16
  | absoluteX => exact .keeps_bind .operand16 fun _ => .readState_bind fun _ => .indexed d _ _
  | absoluteY => exact .keeps_bind .operand16 fun _ => .readState_bind fun _ => .indexed d _ _
  | indirect => exact .of_keeps (.bind .operand16 fun _ => .busLoad16 _)
  | indirectX => exact .of_keeps (.bind .operand8 fun _ => .readState_bind fun _ => .busLoad16 _)
  | indirectY =>
    exact .keeps_bind .operand8 fun _ => .keeps_bind (.busLoad16 _) fun _ => .readState_bind fun _ => .indexed d _ _
  | relative =>
    exact .keeps_bind .operand8 fun _ => .readState_bind fun _ => .bind_keeps (.penalty d _ _) fun _ => .pure _
  | implied => exact .of_keeps (.raise _)
  | illegal => exact .of_keeps (.raise _)
  | unknown => exact .of_keeps (.raise _)

protected theorem readOperand : AddsCycles (penaltyLimit d) (readOperand d) :=
  .bind_keeps (.resolve d) fun _ => .ite (.pure _) (.busLoad _)

/-- A read of the operand, then a change made of it: the shape of the loads, the ALU operations and the compares. -/
protected theorem readThen {f : Byte → State → State} (hf : ∀ m s, (f m s).cyc = s.cyc) :
    AddsCycles (penaltyLimit d) (readOperand d >>= fun m => update fun s => f m s) :=
  .bind_keeps (.readOperand d) fun m => .update (hf m)

/-- A store of a byte taken from the registers. -/
protected theorem storeByte (v : State → Byte) :
    AddsCycles (penaltyLimit d) (readState >>= fun s => storeOperand d (v s)) :=
  .readState_bind fun _ => .bind_keeps (.resolve d) fun _ => .busStore _ _

protected theorem modifyOperand {f : Byte → State → Byte × State} (hf : ∀ v s, (f v s).2.cyc = s.cyc) :
    AddsCycles (penaltyLimit d) (modifyOperand d f) :=
  .ite (.of_keeps (.readState_bind fun _ => .bind (.applyByte hf _) fun _ => .update fun _ => rfl))
    (.bind_keeps (.resolve d) fun _ => .bind (.busLoad _) fun _ => .bind (.applyByte hf _) fun _ => .busStore _ _)

/-- A composite resolves twice (46_unofficial.md R144), and no composite is flagged. -/
protected theorem modifyThenRead (hflag : d.canCrossPage = false) {f : Byte → State → Byte × State}
    {g : Byte → State → State} (hf : ∀ v s, (f v s).2.cyc = s.cyc) (hg : ∀ m s, (g m s).cyc = s.cyc) :
    AddsCycles (penaltyLimit d) (modifyOperand d f >>= fun _ => readOperand d >>= fun m => update fun s => g m s) := by
  have hlimit : penaltyLimit d + penaltyLimit d ≤ penaltyLimit d := by simp [penaltyLimit, hflag]
  exact (AddsCycles.bind (.modifyOperand d hf) fun _ => .readThen d hg).mono hlimit

protected theorem nopUOp : AddsCycles (penaltyLimit d) (nopUOp d) := by
  unfold Machine.nopUOp
  split
  · exact .of_keeps (.pure _)
  · exact .bind_keeps (.resolve d) fun _ => .pure _
  · exact .bind_keeps (.resolve d) fun _ => .bind (.busLoad _) fun _ => .pure _

/-- A taken branch adds one cycle before it resolves its target (44_control.md R121). -/
protected theorem branchOp (f : Flag) (wanted : Bool) : AddsCycles (1 + penaltyLimit d) (branchOp f wanted d) :=
  .readState_bind fun _ => .ite
    (.bind (.addCycles 1) fun _ => .bind_keeps (.resolve d) fun _ => .setPc _) (.of_keeps (.pure _))

end AddsCycles

/-! The instructions. -/

/-- An instruction that completes adds its base cycles, and at most the penalty of one resolution and the cycle of a
taken branch. -/
def InstrAddsCycles (i : Instr) : Prop := ∀ (d : Descriptor) (s t : State), i.descriptor = some d → exec i s = .next t →
  s.cyc + d.cycles ≤ t.cyc ∧ t.cyc ≤ s.cyc + d.cycles + penaltyLimit d + (if d.mode = .relative then 1 else 0)

namespace InstrAddsCycles

variable {i : Instr} {handler : Descriptor → M Unit}

/-- The advance adds the base cycles, the handler the rest (40_engine.md R68). -/
theorem of_bound (hx : ∀ s, exec i s = runInstr i handler s)
    (h : ∀ d, i.descriptor = some d →
      AddsCycles (penaltyLimit d + (if d.mode = .relative then 1 else 0)) (handler d)) : InstrAddsCycles i := by
  intro d s t hd hexec
  rw [hx, runInstr_of_descriptor hd, outcome_eq_next] at hexec
  have hbounds := h d hd _ _ _ hexec
  rw [State.advance_cyc] at hbounds
  omega

theorem of_handler (hx : ∀ s, exec i s = runInstr i handler s)
    (h : ∀ d, i.descriptor = some d → AddsCycles (penaltyLimit d) (handler d)) : InstrAddsCycles i :=
  of_bound hx fun d hd => (h d hd).mono (Nat.le_add_right _ _)

theorem of_keeps (hx : ∀ s, exec i s = runInstr i handler s) (h : ∀ d, KeepsCyc (handler d)) : InstrAddsCycles i :=
  of_handler hx fun d _ => .of_keeps (h d)

theorem of_update {f : State → State} (hx : ∀ s, exec i s = runInstr i (fun _ => update f) s)
    (h : ∀ s, (f s).cyc = s.cyc) : InstrAddsCycles i :=
  of_keeps hx fun _ => .update h

theorem of_readThen {f : Byte → State → State}
    (hx : ∀ s, exec i s = runInstr i (fun d => readOperand d >>= fun m => update fun s => f m s) s)
    (h : ∀ m s, (f m s).cyc = s.cyc) : InstrAddsCycles i :=
  of_handler hx fun d _ => .readThen d h

theorem of_storeByte {v : State → Byte}
    (hx : ∀ s, exec i s = runInstr i (fun d => readState >>= fun s => storeOperand d (v s)) s) : InstrAddsCycles i :=
  of_handler hx fun d _ => .storeByte d v

theorem of_modify {f : Byte → State → Byte × State} (hx : ∀ s, exec i s = runInstr i (fun d => modifyOperand d f) s)
    (h : ∀ v s, (f v s).2.cyc = s.cyc) : InstrAddsCycles i :=
  of_handler hx fun d _ => .modifyOperand d h

/-- A composite none of whose modes is flagged. -/
theorem of_composite {i : Mode → Instr} {m : Mode} {f : Byte → State → Byte × State} {g : Byte → State → State}
    (hx : ∀ s, exec (i m) s =
      runInstr (i m) (fun d => modifyOperand d f >>= fun _ => readOperand d >>= fun b => update fun s => g b s) s)
    (hcheck : allModes.all (fun m => (i m).descriptor.all fun d => !d.canCrossPage) = true)
    (hf : ∀ v s, (f v s).2.cyc = s.cyc) (hg : ∀ b s, (g b s).cyc = s.cyc) : InstrAddsCycles (i m) :=
  of_handler hx fun d hd => .modifyThenRead d (unflagged_of_check hcheck m d hd) hf hg

theorem of_branch {f : Flag} {wanted : Bool} (hx : ∀ s, exec i s = runInstr i (branchOp f wanted) s)
    (hmode : i.mode = .relative) : InstrAddsCycles i :=
  of_bound hx fun d hd => by
    rw [if_pos ((descriptor_mode hd).trans hmode), Nat.add_comm]
    exact .branchOp d f wanted

end InstrAddsCycles

/-- Every instruction, its handler read line by line. -/
theorem instrAddsCycles (i : Instr) : InstrAddsCycles i := by
  cases i with
  | lda m => exact .of_readThen (exec_lda m) fun _ _ => rfl
  | ldx m => exact .of_readThen (exec_ldx m) fun _ _ => rfl
  | ldy m => exact .of_readThen (exec_ldy m) fun _ _ => rfl
  | sta m => exact .of_storeByte (exec_sta m)
  | stx m => exact .of_storeByte (exec_stx m)
  | sty m => exact .of_storeByte (exec_sty m)
  | tax => exact .of_update exec_tax fun _ => rfl
  | tay => exact .of_update exec_tay fun _ => rfl
  | txa => exact .of_update exec_txa fun _ => rfl
  | tya => exact .of_update exec_tya fun _ => rfl
  | tsx => exact .of_update exec_tsx fun _ => rfl
  | txs => exact .of_update exec_txs fun _ => rfl
  | adc m => exact .of_readThen (exec_adc m) fun _ _ => rfl
  | sbc m => exact .of_readThen (exec_sbc m) fun _ _ => rfl
  | and m => exact .of_readThen (exec_and m) fun _ _ => rfl
  | ora m => exact .of_readThen (exec_ora m) fun _ _ => rfl
  | eor m => exact .of_readThen (exec_eor m) fun _ _ => rfl
  | bit m => exact .of_readThen (exec_bit m) fun _ _ => rfl
  | cmp m => exact .of_readThen (exec_cmp m) fun _ _ => rfl
  | cpx m => exact .of_readThen (exec_cpx m) fun _ _ => rfl
  | cpy m => exact .of_readThen (exec_cpy m) fun _ _ => rfl
  | inc m => exact .of_modify (exec_inc m) fun _ _ => rfl
  | dec m => exact .of_modify (exec_dec m) fun _ _ => rfl
  | inx => exact .of_update exec_inx fun _ => rfl
  | iny => exact .of_update exec_iny fun _ => rfl
  | dex => exact .of_update exec_dex fun _ => rfl
  | dey => exact .of_update exec_dey fun _ => rfl
  | asl m => exact .of_modify (exec_asl m) fun _ _ => rfl
  | lsr m => exact .of_modify (exec_lsr m) fun _ _ => rfl
  | rol m => exact .of_modify (exec_rol m) fun _ _ => rfl
  | ror m => exact .of_modify (exec_ror m) fun _ _ => rfl
  | jmp m => exact .of_handler (exec_jmp m) fun d _ => .bind_keeps (.resolve d) fun _ => .setPc _
  | jsr =>
    exact .of_handler exec_jsr fun d _ => .bind_keeps (.resolve d) fun _ => .readState_bind fun _ =>
      .bind (.pushWord _) fun _ => .setPc _
  | rts => exact .of_keeps exec_rts fun _ => .bind .popWord fun _ => .setPc _
  | bcc => exact .of_branch exec_bcc rfl
  | bcs => exact .of_branch exec_bcs rfl
  | beq => exact .of_branch exec_beq rfl
  | bne => exact .of_branch exec_bne rfl
  | bmi => exact .of_branch exec_bmi rfl
  | bpl => exact .of_branch exec_bpl rfl
  | bvc => exact .of_branch exec_bvc rfl
  | bvs => exact .of_branch exec_bvs rfl
  | pha => exact .of_keeps exec_pha fun _ => .readState_bind fun _ => .push _
  | php => exact .of_keeps exec_php fun _ => .readState_bind fun _ => .push _
  | pla => exact .of_keeps exec_pla fun _ => .bind .pop fun _ => .update fun _ => rfl
  | plp => exact .of_keeps exec_plp fun _ => .popStatus
  | clc => exact .of_update exec_clc fun _ => rfl
  | sec => exact .of_update exec_sec fun _ => rfl
  | cli => exact .of_update exec_cli fun _ => rfl
  | sei => exact .of_update exec_sei fun _ => rfl
  | cld => exact .of_update exec_cld fun _ => rfl
  | sed => exact .of_update exec_sed fun _ => rfl
  | clv => exact .of_update exec_clv fun _ => rfl
  | nop => exact .of_keeps exec_nop fun _ => .pure _
  | brk => exact .of_keeps exec_brk fun _ => .readState_bind fun _ => .intSeq _ _ _
  | rti => exact .of_keeps exec_rti fun _ => .returnSeq
  | nopU op => exact .of_handler (exec_nopU op) fun d _ => .nopUOp d
  | laxU m =>
    exact .of_handler (exec_laxU m) fun d _ => .bind_keeps (.readThen d fun _ _ => rfl) fun _ => .update fun _ => rfl
  | saxU m => exact .of_storeByte (exec_saxU m)
  | sbcU => exact .of_readThen exec_sbcU fun _ _ => rfl
  | dcpU m => exact .of_composite (i := .dcpU) (exec_dcpU m) (by decide +kernel) (fun _ _ => rfl) fun _ _ => rfl
  | iscU m => exact .of_composite (i := .iscU) (exec_iscU m) (by decide +kernel) (fun _ _ => rfl) fun _ _ => rfl
  | sloU m => exact .of_composite (i := .sloU) (exec_sloU m) (by decide +kernel) (fun _ _ => rfl) fun _ _ => rfl
  | rlaU m => exact .of_composite (i := .rlaU) (exec_rlaU m) (by decide +kernel) (fun _ _ => rfl) fun _ _ => rfl
  | sreU m => exact .of_composite (i := .sreU) (exec_sreU m) (by decide +kernel) (fun _ _ => rfl) fun _ _ => rfl
  | rraU m => exact .of_composite (i := .rraU) (exec_rraU m) (by decide +kernel) (fun _ _ => rfl) fun _ _ => rfl
  | illegal op => exact .of_keeps (exec_illegal op) fun _ => .raise _

/-- Settles O22: the fetch keeps CYC, and the decoded instruction has the descriptor the step returns
(`instrAddsCycles`). -/
theorem stepCyclesAreBounded : Obligations.StepCyclesAreBounded := by
  intro s u d hstep hdescriptor
  obtain ⟨i, t, hfetch, hexec⟩ := step_next hstep
  obtain ⟨op, hload, rfl⟩ := fetch_ok hfetch
  rw [stepDescriptor_of_busLoad hload] at hdescriptor
  cases hdescriptor
  have hcyc : t.cyc = s.cyc := Keeps.of_ok (KeepsCyc.busLoad s.pc) hload
  have hbounds := instrAddsCycles (decode op) _ t u (descriptor_decode op) hexec
  rwa [hcyc] at hbounds

end Sys2Proof.Machine
end

section
/-! The resolver (40_engine.md R71, R72) and the operand that straddles a page (R73). -/

namespace Sys2Proof.Machine

/-- A mode without an operand (40_engine.md R72). -/
theorem resolve_invalidMode {s : State} {d : Descriptor} (h : d.mode ∈ [Mode.implied, .illegal, .unknown]) :
    resolve d s = .error (.illegal (.invalidMode d.mode)) s := by
  unfold resolve
  simp only [List.mem_cons, List.not_mem_nil, or_false] at h
  rcases h with h | h | h <;> simp [h]

/-- Settles O19: the value and the penalty are `resolve_quiet`, and the source of the check is the mode's own row of
R71. -/
theorem resolverFollowsTheTable : Obligations.ResolverFollowsTheTable := by
  refine ⟨fun _ _ _ => resolve_quiet, fun _ _ => resolve_invalidMode, fun s d r => ?_⟩
  unfold State.penaltyFor State.penaltySource penaltyCycles
  cases d.mode <;> simp

/-- Where the high byte of an operand at the end of a page is read (40_engine.md R73). -/
def State.straddleHigh (s : State) : Word := if s.operandWrap then cat (hi (s.pc - 2)) 0x00 else s.pc - 1

/-- An operand that straddles a page is two loads, the low byte first. -/
theorem operand16_straddle {s : State} (h : lo (s.pc - 2) = 0xFF) :
    operand16 s = (busLoad (s.pc - 2) >>= fun l => busLoad s.straddleHigh >>= fun b => pure (cat b l)) s := by
  rw [operand16, M.bind_of_ok (readState_apply s), State.straddleHigh]
  cases s.operandWrap with
  | true => rw [if_pos rfl, if_pos rfl, busLoad16, nextInPage_eq, if_pos h]
  | false => rfl

section
variable {s t u : State} {l b : Byte} {c : Cause}

theorem operand16_straddle_ok (h : lo (s.pc - 2) = 0xFF) (hlow : busLoad (s.pc - 2) s = .ok l t)
    (hhigh : busLoad s.straddleHigh t = .ok b u) : operand16 s = .ok (cat b l) u := by
  rw [operand16_straddle h, M.bind_of_ok hlow, M.bind_of_ok hhigh, M.pure_apply]

theorem operand16_straddle_error_low (h : lo (s.pc - 2) = 0xFF) (hlow : busLoad (s.pc - 2) s = .error c t) :
    operand16 s = .error c t := by
  rw [operand16_straddle h, M.bind_of_error hlow]

theorem operand16_straddle_error_high (h : lo (s.pc - 2) = 0xFF) (hlow : busLoad (s.pc - 2) s = .ok l t)
    (hhigh : busLoad s.straddleHigh t = .error c u) : operand16 s = .error c u := by
  rw [operand16_straddle h, M.bind_of_ok hlow, M.bind_of_error hhigh]

/-- The same for two bytes read with no side effect. -/
theorem operand16_straddle_quiet (h : lo (s.pc - 2) = 0xFF) (hlow : s.quietByte? (s.pc - 2) = some l)
    (hhigh : s.quietByte? s.straddleHigh = some b) : operand16 s = .ok (cat b l) s :=
  operand16_straddle_ok h (busLoad_quiet hlow) (busLoad_quiet hhigh)

end

/-- Settles O20: the operand is two loads in sequence, the second at `straddleHigh`. -/
theorem straddlingOperandFollowsOperandWrap : Obligations.StraddlingOperandFollowsOperandWrap := by
  refine fun s hlast => ⟨fun l b hlow => ⟨fun hwrap hhigh => operand16_straddle_quiet hlast hlow ?_,
    fun hwrap hhigh => operand16_straddle_quiet hlast hlow ?_⟩, fun c t => operand16_straddle_error_low hlast,
    fun l t hlow => ⟨fun b u => operand16_straddle_ok hlast hlow, fun c u => operand16_straddle_error_high hlast hlow⟩⟩
  · rwa [State.straddleHigh, if_pos hwrap]
  · rwa [State.straddleHigh, hwrap]

end Sys2Proof.Machine
end

section
/-! The stores of an instruction (40_engine.md R75, R76, 46_unofficial.md R144): one store, at the address that the
resolver gives from the advanced state, among loads and writes of the CPU record. -/

namespace Sys2Proof.Machine

/-- A store to a block of registers leaves the other registers. -/
theorem RegBlock.store_quiet_of_ne (b : RegBlock) (name : DeviceName) {o q : Nat} (v : Byte) (h : o ≠ q) :
    (b.store name o v).2.quiet? q = b.quiet? q := by
  cases b with
  | external events => rfl
  | registers regs =>
    simp only [RegBlock.store]
    split
    · simp [RegBlock.quiet?, h]
    · rfl

/-- No mapper has a byte that a store changes and a load shows with no side effect. -/
theorem Mapper.store_quiet (banks : Banks) (prg : Memory) (d : Mapper) (o q : Nat) (v : Byte) :
    (d.store banks o v).2.quiet? prg q = d.quiet? prg q := by
  cases d <;> rfl

theorem deviceStore_ram_of_lt {o : Nat} (h : o < Config.ramSize) (v : Byte) (s : State) :
    (deviceStore .ram o v s).2 = s.setRam (s.ram.write o v) := by
  simp only [deviceStore, ramStore, if_pos h]
  rfl

/-- A store that the router sends to one place changes no byte at another. -/
theorem deviceStore_quiet_of_ne {s : State} (hram : s.ram.wf Config.ramSize = true) {r a : Word} {d : DeviceId} {o : Nat}
    (hr : s.route r = .ok (d, o)) (ha : s.route a ≠ .ok (d, o)) (v : Byte) :
    (deviceStore d o v s).2.quietByte? a = s.quietByte? a := by
  by_cases hd : d = .ram
  · subst hd
    rw [deviceStore_ram_of_lt (route_offset hr), quietByte?_setRam_write hram, if_neg ha]
  unfold State.quietByte?
  rw [deviceStore_route]
  cases d with
  | ram => exact absurd rfl hd
  | rom => rfl
  | ppu =>
    split
    case h_2 q hq => exact RegBlock.store_quiet_of_ne _ _ v (by rintro rfl; exact ha hq)
    all_goals rfl
  | io =>
    split
    case h_3 q hq => exact RegBlock.store_quiet_of_ne _ _ v (by rintro rfl; exact ha hq)
    all_goals rfl
  | mapper =>
    split
    case h_5 q hq => exact Mapper.store_quiet _ _ _ _ _ v
    all_goals rfl

/-- A store inside RAM keeps its canonical form, and no other store changes RAM. -/
theorem deviceStore_ramWf {s : State} (hram : s.ram.wf Config.ramSize = true) (d : DeviceId) (o : Nat) (v : Byte) :
    (deviceStore d o v s).2.ram.wf Config.ramSize = true := by
  by_cases hd : d = .ram
  · subst hd
    by_cases ho : o < Config.ramSize
    · rw [deviceStore_ram_of_lt ho]
      exact Memory.write_wf hram ho v
    · simpa [deviceStore, ramStore, ho] using hram
  · rwa [(deviceStore_sameElsewhere d o v s).ram hd]

/-- From `s` to `t` no byte reads differently but the one at `r`, seen there and at its mirrors. -/
structure SameBytesBut (r : Word) (s t : State) : Prop where
  route : ∀ a, t.route a = s.route a
  ramWf : s.ram.wf Config.ramSize = true → t.ram.wf Config.ramSize = true
  bytes : s.ram.wf Config.ramSize = true → ∀ a, ¬ s.sameCell r a → t.quietByte? a = s.quietByte? a

variable {r : Word}

theorem SameBytesBut.refl (s : State) : SameBytesBut r s s where
  route _ := rfl
  ramWf := id
  bytes _ _ _ := rfl

theorem SameBytesBut.loadFrame : LoadFrame (SameBytesBut r) where
  refl := .refl
  trans h h' :=
    { route := fun a => (h'.route a).trans (h.route a)
      ramWf := h'.ramWf ∘ h.ramWf
      bytes := fun hram a ha => by
        rw [h'.bytes (h.ramWf hram) a (mt (sameCell_of_route h.route r a).mp ha), h.bytes hram a ha] }
  load d o s :=
    { route := deviceLoad_route d o s
      ramWf := fun hram => by rwa [(deviceLoad_sameMemory d o s).1]
      bytes := fun _ a _ => deviceLoad_quiet d o s a }
  cycles _ s := { SameBytesBut.refl s with }

/-- A change of the CPU record alone (10_state.md R14). -/
def OnlyCpu (s t : State) : Prop :=
  t = { s with pc := t.pc, sp := t.sp, a := t.a, x := t.x, y := t.y, p := t.p, cyc := t.cyc }

/-- Memory is no part of the CPU record. -/
theorem SameBytesBut.of_onlyCpu {s t : State} (h : OnlyCpu s t) : SameBytesBut r s t := by
  rw [h]
  exact { SameBytesBut.refl s with }

theorem Keeps.busStore_sameBytesBut (v : Byte) : Keeps (SameBytesBut r) (Machine.busStore r v) :=
  .busStore_of_frame SameBytesBut.loadFrame.toFrame fun d o s hr =>
    { route := deviceStore_route d o v s
      ramWf := fun hram => deviceStore_ramWf hram d o v
      bytes := fun hram _ ha => deviceStore_quiet_of_ne hram hr (mt (sameCell_iff hr).mpr ha) v }

/-- A computation that, where it answers, changes no byte but the one at the address that its first resolution gives. -/
def StoresOnlyAtOperand (d : Descriptor) (m : M Unit) : Prop :=
  ∀ s t u r, resolve d s = .ok r u → m s = .ok () t → SameBytesBut r s t

namespace StoresOnlyAtOperand

variable {d : Descriptor}

/-- The resolver makes loads; what follows may store at the address it gave. -/
theorem of_resolve {f : Word → M Unit} (hf : ∀ r, Keeps (SameBytesBut r) (f r)) :
    StoresOnlyAtOperand d (resolve d >>= f) := by
  intro s t u r hresolve hm
  rw [M.bind_of_ok hresolve] at hm
  exact SameBytesBut.loadFrame.trans ((Keeps.resolve SameBytesBut.loadFrame d).of_ok hresolve) ((hf r).of_ok hm)

protected theorem storeByte (v : State → Byte) :
    StoresOnlyAtOperand d (readState >>= fun s => storeOperand d (v s)) := fun s t u r hresolve hm =>
  of_resolve (fun _ => .busStore_sameBytesBut (v s)) s t u r hresolve hm

/-- Modify in a memory mode: one load, the flags, one store (40_engine.md R76). -/
protected theorem modifyOperand {f : Byte → State → Byte × State} (hmode : d.mode ≠ .accumulator)
    (hf : ∀ v s, OnlyCpu s (f v s).2) : StoresOnlyAtOperand d (modifyOperand d f) := by
  rw [Machine.modifyOperand, if_neg hmode]
  have h {r : Word} : LoadFrame (SameBytesBut r) := SameBytesBut.loadFrame
  exact of_resolve fun r => .bind h.toFrame (.busLoad h r) fun _ =>
    .bind h.toFrame (.applyByte (fun v s => .of_onlyCpu (hf v s)) _) fun _ => .busStore_sameBytesBut _

/-- The second part of a composite reads its operand and changes the CPU record (46_unofficial.md R144). -/
protected theorem modifyThenRead {f : Byte → State → Byte × State} {g : Byte → State → State}
    (hmode : d.mode ≠ .accumulator) (hf : ∀ v s, OnlyCpu s (f v s).2) (hg : ∀ m s, OnlyCpu s (g m s)) :
    StoresOnlyAtOperand d (modifyOperand d f >>= fun _ => readOperand d >>= fun m => update fun s => g m s) := by
  intro s t u r hresolve hm
  obtain ⟨_, w, hfirst, hsecond⟩ := M.bind_ok_inv hm
  have hread := Keeps.readThen (SameBytesBut.loadFrame (r := r)) (fun m s => .of_onlyCpu (hg m s)) d
  exact SameBytesBut.loadFrame.trans (StoresOnlyAtOperand.modifyOperand hmode hf s w u r hresolve hfirst)
    (hread.of_ok hsecond)

end StoresOnlyAtOperand

/-- An instruction that changes no byte but the one at its effective address. -/
def InstrStoresOnlyAtOperand (i : Instr) : Prop :=
  ∀ (d : Descriptor) (s t u : State) (r : Word), i.descriptor = some d → resolve d (s.advance d) = .ok r u →
    exec i s = .next t → SameBytesBut r s t

namespace InstrStoresOnlyAtOperand

variable {i : Instr} {f : Byte → State → Byte × State} {g : Byte → State → State}

theorem of_handler {handler : Descriptor → M Unit} (hx : ∀ s, exec i s = runInstr i handler s)
    (h : ∀ d, i.descriptor = some d → StoresOnlyAtOperand d (handler d)) : InstrStoresOnlyAtOperand i := by
  intro d s t u r hd hresolve hexec
  rw [hx, runInstr_of_descriptor hd, outcome_eq_next] at hexec
  exact SameBytesBut.loadFrame.trans (.of_onlyCpu (t := s.advance d) rfl) (h d hd _ t u r hresolve hexec)

theorem of_storeByte {v : State → Byte}
    (hx : ∀ s, exec i s = runInstr i (fun d => readState >>= fun s => storeOperand d (v s)) s) :
    InstrStoresOnlyAtOperand i :=
  of_handler hx fun _ _ => .storeByte v

theorem of_modify (hx : ∀ s, exec i s = runInstr i (fun d => modifyOperand d f) s)
    (hmode : i.wf = true → i.mode ≠ .accumulator) (hf : ∀ v s, OnlyCpu s (f v s).2) : InstrStoresOnlyAtOperand i :=
  of_handler hx fun _ hd => .modifyOperand (modeOf hd hmode) hf

theorem of_composite
    (hx : ∀ s, exec i s =
      runInstr i (fun d => modifyOperand d f >>= fun _ => readOperand d >>= fun m => update fun s => g m s) s)
    (hmode : i.wf = true → i.mode ≠ .accumulator) (hf : ∀ v s, OnlyCpu s (f v s).2)
    (hg : ∀ m s, OnlyCpu s (g m s)) : InstrStoresOnlyAtOperand i :=
  of_handler hx fun _ hd => .modifyThenRead (modeOf hd hmode) hf hg

end InstrStoresOnlyAtOperand

/-- Every instruction that stores, its handler read line by line. -/
theorem instrStoresOnlyAtOperand {i : Instr} (hi : i.storesOperand = true) : InstrStoresOnlyAtOperand i := by
  cases i with
  | sta m => exact .of_storeByte (exec_sta m)
  | stx m => exact .of_storeByte (exec_stx m)
  | sty m => exact .of_storeByte (exec_sty m)
  | saxU m => exact .of_storeByte (exec_saxU m)
  | inc m => exact .of_modify (exec_inc m) (by cases m <;> decide) fun _ _ => rfl
  | dec m => exact .of_modify (exec_dec m) (by cases m <;> decide) fun _ _ => rfl
  | asl m => exact .of_modify (exec_asl m) (fun _ => bne_iff_ne.mp hi) fun _ _ => rfl
  | lsr m => exact .of_modify (exec_lsr m) (fun _ => bne_iff_ne.mp hi) fun _ _ => rfl
  | rol m => exact .of_modify (exec_rol m) (fun _ => bne_iff_ne.mp hi) fun _ _ => rfl
  | ror m => exact .of_modify (exec_ror m) (fun _ => bne_iff_ne.mp hi) fun _ _ => rfl
  | dcpU m => exact .of_composite (exec_dcpU m) (by cases m <;> decide) (fun _ _ => rfl) fun _ _ => rfl
  | iscU m => exact .of_composite (exec_iscU m) (by cases m <;> decide) (fun _ _ => rfl) fun _ _ => rfl
  | sloU m => exact .of_composite (exec_sloU m) (by cases m <;> decide) (fun _ _ => rfl) fun _ _ => rfl
  | rlaU m => exact .of_composite (exec_rlaU m) (by cases m <;> decide) (fun _ _ => rfl) fun _ _ => rfl
  | sreU m => exact .of_composite (exec_sreU m) (by cases m <;> decide) (fun _ _ => rfl) fun _ _ => rfl
  | rraU m => exact .of_composite (exec_rraU m) (by cases m <;> decide) (fun _ _ => rfl) fun _ _ => rfl
  | _ => cases hi

/-- Settles O31: each storing instruction is loads, writes of the CPU record and one store at the resolved address. -/
theorem storingFormsKeepOtherBytes : Obligations.StoringFormsKeepOtherBytes := by
  intro i d s t u r hexec hi hd hresolve hwf a ha
  obtain ⟨hram, -⟩ := s.wf_iff.mp hwf
  exact (instrStoresOnlyAtOperand hi d s t u r hd hresolve hexec).bytes hram a ha

end Sys2Proof.Machine
end

section
/-! Loads, stores and transfers (41_load_store_transfer.md): the Encoding lines are checked against the table, and each
handler is one of the shapes of Laws/Families.lean or a single change of the state. -/

namespace Sys2Proof.Machine

/-- An instruction whose handler answers in every state completes with the handler's change, made past the opcode's
length and base cycles (40_engine.md R68). -/
theorem exec_eq_next_past {i : Instr} {handler : Descriptor → M Unit} {f : State → State} {op : Byte}
    {mnemonic : String} {length cycles : Nat} {cross : Bool} {mode : Mode}
    (hlookup : lookup op = ⟨op, mnemonic, length, cycles, cross, mode⟩) (hdecode : decode op = i)
    (hx : ∀ s, exec i s = runInstr i handler s) (hh : ∀ d s, handler d s = .ok () (f s)) (s : State) :
    exec i s = .next (f (s.past length cycles)) := by
  have hdescriptor : i.descriptor = some (lookup op) := hdecode ▸ descriptor_decode op
  rw [hx, runInstr_of_descriptor hdescriptor, hh, outcome_ok, hlookup, advance_eq_past]

/-- Settles O33: each handler is ReadOperand and then the two writes of the CPU record. -/
theorem loadsSetRegisterAndZN : Obligations.LoadsSetRegisterAndZN := by
  refine ⟨.of_check (by decide) (by decide), .of_check (by decide) (by decide), .of_check (by decide) (by decide),
    fun md => ⟨?lda, ?ldx, ?ldy⟩⟩
  case lda => exact .of_handler (exec_lda md) fun _ => rfl
  case ldx => exact .of_handler (exec_ldx md) fun _ => rfl
  case ldy => exact .of_handler (exec_ldy md) fun _ => rfl

/-- Settles O34: each handler is StoreOperand of a register, which the advance keeps. -/
theorem storesWriteTheRegister : Obligations.StoresWriteTheRegister := by
  refine ⟨.of_check (by decide) (by decide), .of_check (by decide) (by decide), .of_check (by decide) (by decide),
    fun md => ⟨?sta, ?stx, ?sty⟩⟩
  case sta => exact .of_handler (exec_sta md) fun _ _ => rfl
  case stx => exact .of_handler (exec_stx md) fun _ _ => rfl
  case sty => exact .of_handler (exec_sty md) fun _ _ => rfl

/-- Settles O35: each handler is one update, which no state makes raise (`exec_eq_next_past`). -/
theorem transfersCopyARegister : Obligations.TransfersCopyARegister := by
  refine ⟨⟨rfl, rfl, ?tax⟩, ⟨rfl, rfl, ?tay⟩, ⟨rfl, rfl, ?txa⟩, ⟨rfl, rfl, ?tya⟩, ⟨rfl, rfl, ?tsx⟩, rfl, rfl, ?txs⟩
  case tax => exact exec_eq_next_past (op := 0xAA) rfl rfl exec_tax fun _ => update_apply _
  case tay => exact exec_eq_next_past (op := 0xA8) rfl rfl exec_tay fun _ => update_apply _
  case txa => exact exec_eq_next_past (op := 0x8A) rfl rfl exec_txa fun _ => update_apply _
  case tya => exact exec_eq_next_past (op := 0x98) rfl rfl exec_tya fun _ => update_apply _
  case tsx => exact exec_eq_next_past (op := 0xBA) rfl rfl exec_tsx fun _ => update_apply _
  case txs => exact exec_eq_next_past (op := 0x9A) rfl rfl exec_txs fun _ => update_apply _

end Sys2Proof.Machine
end

section
/-! Arithmetic, logic, compare and increment (42_arith_logic.md): AddCarry and Compare as integer arithmetic, and each
handler as one of the shapes of Laws/Families.lean or a single change of the state. -/

namespace Sys2Proof.Machine

/-! AddCarry (R96). -/

theorem toNat_carryResult (a m : Byte) (c : Bool) : (carryResult a m c).toNat = carrySum a m c % 0x100 :=
  BitVec.toNat_ofNat _ 8

/-- The overflow bit: the result's sign differs from that of both operands. -/
theorem carryOverflow_iff_msb (a m r : Byte) :
    carryOverflow a m r = true ↔ a.msb ≠ r.msb ∧ m.msb ≠ r.msb := by
  have hsign : ∀ v : Byte, (v &&& 0x80 != 0) = v.msb := by decide
  rw [carryOverflow, hsign]
  simp

/-- The overflow bit of AddCarry is set exactly where the signed sum leaves −128 to 127: the result is the sum mod 256,
so its sign is wrong exactly there. -/
theorem carryOverflow_carryResult_iff (a m : Byte) (c : Bool) :
    carryOverflow a m (carryResult a m c) = true ↔
      a.toInt + m.toInt + (c.toNat : Int) < -128 ∨ 127 < a.toInt + m.toInt + (c.toNat : Int) := by
  have hc : c.toNat ≤ 1 := c.toNat_le
  have hr := toNat_carryResult a m c
  unfold carrySum at hr
  simp only [carryOverflow_iff_msb, BitVec.msb_eq_decide, BitVec.toInt_eq_toNat_cond, ne_eq, decide_eq_decide]
  omega

/-- What each flag of AddCarry reads. -/
theorem flag_addCarry (s : State) (m : Byte) (f : Flag) :
    (s.addCarry m).flag f =
      if f = .zero then (s.addCarry m).a == 0
      else if f = .negative then getBit (s.addCarry m).a 7
      else if f = .overflow then carryOverflow s.a m (s.addCarry m).a
      else if f = .carry then decide (0xFF < carrySum s.a m (s.flag .carry))
      else s.flag f := by
  cases f <;> simp [State.flag, addCarry_eq]

theorem addCarry_carry_iff (s : State) (m : Byte) :
    (s.addCarry m).flag .carry = true ↔ 0xFF < carrySum s.a m (s.flag .carry) := by
  rw [flag_addCarry]
  exact decide_eq_true_iff

theorem addCarry_a (s : State) (m : Byte) : (s.addCarry m).a = carryResult s.a m (s.flag .carry) := rfl

theorem toNat_complement (m : Byte) : (m ^^^ 0xFF).toNat = 0xFF - m.toNat := by
  rw [show (0xFF : Byte) = BitVec.allOnes 8 from rfl, BitVec.xor_allOnes, BitVec.toNat_not]

/-- Settles O37: the sum is one of naturals (`toNat_carryResult`) and of signed integers
(`carryOverflow_carryResult_iff`); the complement turns `+ m` into `− m − 1` mod 256. -/
theorem addCarryIsBinaryArithmetic : Obligations.AddCarryIsBinaryArithmetic := by
  intro s m
  refine ⟨toNat_carryResult _ _ _, ?carry, ?overflow, ?zero, ?negative, ?others, rfl, ?difference,
    ?noBorrow⟩
  case carry => exact addCarry_carry_iff s m
  case overflow => simpa [flag_addCarry, addCarry_a] using carryOverflow_carryResult_iff s.a m (s.flag .carry)
  case zero => simp [flag_addCarry]
  case negative => simp [flag_addCarry]
  case others =>
    intro f hf
    simp only [List.mem_cons, List.not_mem_nil, or_false, not_or] at hf
    obtain ⟨hcarry, hzero, hoverflow, hnegative⟩ := hf
    rw [flag_addCarry, if_neg hzero, if_neg hnegative, if_neg hoverflow, if_neg hcarry]
  case difference =>
    rw [addCarry_a, toNat_carryResult, carrySum, toNat_complement]
    omega
  case noBorrow =>
    rw [addCarry_carry_iff, carrySum, toNat_complement]
    omega

/-- Settles O36: each handler is ReadOperand and then AddCarry, *SBC with the handler of SBC. -/
theorem addAndSubtractApplyAddCarry : Obligations.AddAndSubtractApplyAddCarry := by
  refine ⟨.of_check (by decide) (by decide), .of_check (by decide) (by decide), rfl, rfl, fun md => ⟨?adc, ?sbc⟩,
    ?sbcU⟩
  case adc => exact .of_handler (exec_adc md) fun _ => rfl
  case sbc => exact .of_handler (exec_sbc md) fun _ => rfl
  case sbcU => exact .of_handler exec_sbcU fun _ => rfl

/-- Settles O38: each handler is ReadOperand and then one change of A and P, for BIT of P alone (`bitTest_eq`). -/
theorem logicAndBitTest : Obligations.LogicAndBitTest := by
  refine ⟨.of_check (by decide) (by decide), .of_check (by decide) (by decide), .of_check (by decide) (by decide),
    .of_check (by decide) (by decide), fun md => ⟨?and, ?ora, ?eor, ?bit⟩⟩
  case and => exact .of_handler (exec_and md) fun _ => rfl
  case ora => exact .of_handler (exec_ora md) fun _ => rfl
  case eor => exact .of_handler (exec_eor md) fun _ => rfl
  case bit =>
    simp only [← bitTest_eq]
    exact .of_handler (exec_bit md) fun _ => rfl

/-! Compare (R103). -/

/-- The 16-bit difference fits a byte exactly where nothing is borrowed. -/
theorem compareDiff_lt_iff (reg m : Byte) : compareDiff reg m < 0x100 ↔ m.toNat ≤ reg.toNat := by
  simp only [compareDiff, zext16]
  bv_omega

/-- The low byte of the 16-bit difference is the difference of the bytes. -/
theorem getLsbD_compareDiff (reg m : Byte) : (compareDiff reg m).getLsbD 7 = getBit (reg - m) 7 := by
  have hlow : (compareDiff reg m).setWidth 8 = reg - m := by
    simp only [compareDiff, zext16]
    bv_omega
  simp [getBit, ← hlow]

/-- What each flag of Compare reads. -/
theorem flag_compare (s : State) (reg m : Byte) (f : Flag) :
    (s.compare reg m).flag f =
      if f = .carry then decide (m.toNat ≤ reg.toNat)
      else if f = .zero then reg == m
      else if f = .negative then getBit (reg - m) 7
      else s.flag f := by
  simp only [compare_eq, compareDiff_lt_iff, getLsbD_compareDiff]
  cases f <;> simp [State.flag]

/-- Settles O40: each clause reads one flag (`flag_compare`). -/
theorem compareIsUnsigned : Obligations.CompareIsUnsigned := by
  intro s reg m
  refine ⟨by simp [flag_compare], by simp [flag_compare], by simp [flag_compare], fun f hf => ?others, rfl⟩
  simp only [List.mem_cons, List.not_mem_nil, or_false, not_or] at hf
  obtain ⟨hcarry, hzero, hnegative⟩ := hf
  rw [flag_compare, if_neg hcarry, if_neg hzero, if_neg hnegative]

/-- Settles O39: each handler is ReadOperand and then Compare of its register. -/
theorem comparesApplyCompare : Obligations.ComparesApplyCompare := by
  refine ⟨.of_check (by decide) (by decide), .of_check (by decide) (by decide), .of_check (by decide) (by decide),
    fun md => ⟨?cmp, ?cpx, ?cpy⟩⟩
  case cmp => exact .of_handler (exec_cmp md) fun _ => rfl
  case cpx => exact .of_handler (exec_cpx md) fun _ => rfl
  case cpy => exact .of_handler (exec_cpy md) fun _ => rfl

/-! Increments and decrements (R107 to R112). -/

/-- Settles O41: each handler is Modify of `incByte` or `decByte`. -/
theorem incrementAndDecrementMemory : Obligations.IncrementAndDecrementMemory := by
  refine ⟨.of_check (by decide) (by decide), .of_check (by decide) (by decide), fun md => ⟨?inc, ?dec⟩⟩
  case inc => exact .of_handler (exec_inc md)
  case dec => exact .of_handler (exec_dec md)

/-- Settles O42: each handler is one update, which no state makes raise (`exec_eq_next_past`). -/
theorem incrementAndDecrementIndex : Obligations.IncrementAndDecrementIndex := by
  refine ⟨⟨rfl, rfl, ?inx⟩, ⟨rfl, rfl, ?iny⟩, ⟨rfl, rfl, ?dex⟩, rfl, rfl, ?dey⟩
  case inx => exact exec_eq_next_past (op := 0xE8) rfl rfl exec_inx fun _ => update_apply _
  case iny => exact exec_eq_next_past (op := 0xC8) rfl rfl exec_iny fun _ => update_apply _
  case dex => exact exec_eq_next_past (op := 0xCA) rfl rfl exec_dex fun _ => update_apply _
  case dey => exact exec_eq_next_past (op := 0x88) rfl rfl exec_dey fun _ => update_apply _

end Sys2Proof.Machine
end

section
/-! Shifts and rotates (43_shift_rotate.md): the Encoding lines are checked against the table, and each handler is Modify
of its byte function. -/

namespace Sys2Proof.Machine

/-- Settles O43: each handler is Modify of `aslByte`, `lsrByte`, `rolByte` or `rorByte`. -/
theorem shiftsAndRotates : Obligations.ShiftsAndRotates := by
  refine ⟨.of_check (by decide) (by decide), .of_check (by decide) (by decide), .of_check (by decide) (by decide),
    .of_check (by decide) (by decide), fun md => ⟨?asl, ?lsr, ?rol, ?ror⟩⟩
  case asl => exact .of_handler (exec_asl md)
  case lsr => exact .of_handler (exec_lsr md)
  case rol => exact .of_handler (exec_rol md)
  case ror => exact .of_handler (exec_ror md)

end Sys2Proof.Machine
end

section
/-! Control (44_control.md): JMP and JSR follow the resolver wherever it leads, RTS the stack, and a branch the one load
that its displacement takes. -/

namespace Sys2Proof.Machine

/-- An instruction known by its row of the table runs its handler past its length and base cycles (40_engine.md R68). -/
theorem exec_eq_outcome_past {i : Instr} {handler : Descriptor → M Unit} {op : Byte} {mnemonic : String}
    {length cycles : Nat} {cross : Bool} {mode : Mode}
    (hlookup : lookup op = ⟨op, mnemonic, length, cycles, cross, mode⟩) (hdecode : decode op = i)
    (hx : ∀ s, exec i s = runInstr i handler s) (s : State) :
    exec i s = outcome (handler (lookup op) (s.past length cycles)) := by
  have hdescriptor : i.descriptor = some (lookup op) := hdecode ▸ descriptor_decode op
  rw [hx, runInstr_of_descriptor hdescriptor, hlookup, advance_eq_past]

/-! JMP (R117). -/

/-- No row of JMP is flagged `can_cross_page`. -/
theorem jmp_unflagged {md : Mode} {d : Descriptor} (hd : (Instr.jmp md).descriptor = some d) :
    d.canCrossPage = false :=
  unflagged_of_check (i := .jmp) (by decide) md d hd

/-- Settles O44: JMP is the resolver and one write of PC; a JMP has no penalty, so a quiet operand changes nothing. -/
theorem jumpTakesTheResolvedAddress : Obligations.JumpTakesTheResolvedAddress := by
  refine ⟨.of_check (by decide) (by decide), fun md d s hd => ?_⟩
  have hexec : exec (.jmp md) s = outcome (jmpOp d (s.advance d)) := by rw [exec_jmp, runInstr_of_descriptor hd]
  have hok : ∀ r t, resolve d (s.advance d) = .ok r t → exec (.jmp md) s = .next (t.setPc r) := by
    intro r t hresolve
    rw [hexec, jmpOp, M.bind_of_ok hresolve, update_apply, outcome_ok]
  refine ⟨fun r hquiet => hok r _ (resolve_unflagged (jmp_unflagged hd) hquiet), hok, fun c t hresolve => ?_⟩
  rw [hexec, jmpOp, M.bind_of_error hresolve, outcome_error]

/-! JSR (R118). -/

section
variable {s t : State} {target : Word}

/-- The address of JSR's last byte, seen from the state that the target's reads leave. -/
theorem resolved_returnAddress {d : Descriptor} (h : resolve d (s.past 3 6) = .ok target t) :
    t.pc - 1 = s.pc + 2 := by
  have hpc : t.pc = s.pc + 3 := congrArg Registers.pc (resolve_registers h)
  rw [hpc]
  bv_omega

theorem exec_jsr_eq (s : State) : exec .jsr s = outcome (jsrOp (lookup 0x20) (s.past 3 6)) :=
  exec_eq_outcome_past (op := 0x20) rfl rfl exec_jsr s

/-- After its target is read, JSR is a push of its return address and a write of PC. -/
theorem exec_jsr_of_resolve (h : resolve (lookup 0x20) (s.past 3 6) = .ok target t) :
    exec .jsr s = outcome ((pushWord (s.pc + 2) >>= fun _ => update fun u => u.setPc target) t) := by
  rw [exec_jsr_eq, jsrOp, M.bind_of_ok h, M.bind_of_ok (readState_apply t),
    resolved_returnAddress h]

theorem exec_jsr_of_error {c : Cause} (h : resolve (lookup 0x20) (s.past 3 6) = .error c t) :
    exec .jsr s = .fault (c.toFault t) := by
  rw [exec_jsr_eq, jsrOp, M.bind_of_error h, outcome_error]

theorem resolve_past_sp {d : Descriptor} {length cycles : Nat} (h : resolve d (s.past length cycles) = .ok target t) :
    t.sp = s.sp :=
  congrArg Registers.sp (resolve_registers h)

theorem exec_jsr_ok (h : resolve (lookup 0x20) (s.past 3 6) = .ok target t) (hroom : 2 ≤ s.sp.toNat) :
    exec .jsr s = .next (((t.pushed (hi (s.pc + 2))).pushed (lo (s.pc + 2))).setPc target) := by
  have h0 : t.sp ≠ 0x00 := by rw [resolve_past_sp h]; bv_omega
  have h1 : t.sp ≠ 0x01 := by rw [resolve_past_sp h]; bv_omega
  rw [exec_jsr_of_resolve h, M.bind_of_ok (pushWord_ok h0 h1 _), update_apply, outcome_ok]

theorem exec_jsr_error_second (h : resolve (lookup 0x20) (s.past 3 6) = .ok target t) (hsp : s.sp = 0x01) :
    exec .jsr s = .fault (.memory (.stackOverflow 0x00) (t.pushed (hi (s.pc + 2)))) := by
  rw [exec_jsr_of_resolve h, M.bind_of_error (pushWord_error_second ((resolve_past_sp h).trans hsp) _)]
  rfl

theorem exec_jsr_error_first (h : resolve (lookup 0x20) (s.past 3 6) = .ok target t) (hsp : s.sp = 0x00) :
    exec .jsr s = .fault (.memory (.stackOverflow 0x00) t) := by
  rw [exec_jsr_of_resolve h, M.bind_of_error (pushWord_error_first ((resolve_past_sp h).trans hsp) _)]
  rfl

/-- A JSR that completes read its target and had room for two bytes. -/
theorem exec_jsr_inv {u : State} (h : exec .jsr s = .next u) :
    ∃ target t, resolve (lookup 0x20) (s.past 3 6) = .ok target t ∧ 2 ≤ s.sp.toNat ∧
      u = ((t.pushed (hi (s.pc + 2))).pushed (lo (s.pc + 2))).setPc target := by
  cases hresolve : resolve (lookup 0x20) (s.past 3 6) with
  | error c t => simp [exec_jsr_of_error hresolve] at h
  | ok target t =>
    have h0 : s.sp ≠ 0x00 := fun hsp => by simp [exec_jsr_error_first hresolve hsp] at h
    have h1 : s.sp ≠ 0x01 := fun hsp => by simp [exec_jsr_error_second hresolve hsp] at h
    have hroom : 2 ≤ s.sp.toNat := by bv_omega
    rw [exec_jsr_ok hresolve hroom] at h
    cases h
    exact ⟨target, t, rfl, hroom, rfl⟩

end

/-- Settles O45: the three cases of SP from any state the target's reads leave; a quiet target leaves the advanced
state. -/
theorem jsrPushesTheReturnAddress : Obligations.JsrPushesTheReturnAddress := by
  refine ⟨rfl, rfl, fun s target hquiet => ?quiet, fun s t target hresolve => ?bus, fun _ _ _ => exec_jsr_of_error⟩
  case quiet =>
    have hresolve := resolve_unflagged (d := lookup 0x20) rfl hquiet
    exact ⟨exec_jsr_ok hresolve, exec_jsr_error_second hresolve, exec_jsr_error_first hresolve⟩
  case bus => exact ⟨exec_jsr_ok hresolve, exec_jsr_error_second hresolve, exec_jsr_error_first hresolve⟩

/-! RTS (R119), and the return from a call (R120). -/

theorem exec_rts_eq (s : State) :
    exec .rts s = outcome ((popWord >>= fun ret => update fun t => t.setPc (ret + 1)) (s.past 1 6)) :=
  exec_eq_outcome_past (op := 0x60) rfl rfl exec_rts s

theorem exec_rts_ok {s : State} (h : s.sp.toNat ≤ 0xFD) :
    exec .rts s = .next (((s.past 1 6).setSp (s.sp + 2)).setPc
      (cat (s.ram.read (0x0100 + (s.sp + 2).toNat)) (s.ram.read (0x0100 + (s.sp + 1).toNat)) + 1)) := by
  have h0 : (s.past 1 6).sp ≠ 0xFF := by rw [State.past_sp]; bv_omega
  have h1 : (s.past 1 6).sp ≠ 0xFE := by rw [State.past_sp]; bv_omega
  rw [exec_rts_eq, M.bind_of_ok (popWord_ok h0 h1)]
  rfl

/-- Settles O46: one pop of a word, in the three cases of SP. -/
theorem rtsReturnsPastThePoppedAddress : Obligations.RtsReturnsPastThePoppedAddress := by
  refine ⟨rfl, rfl, fun s => ⟨exec_rts_ok, fun hsp => ?second, fun hsp => ?first⟩⟩
  case second =>
    rw [exec_rts_eq, M.bind_of_error (popWord_error_second (s := s.past 1 6) hsp)]
    rfl
  case first =>
    rw [exec_rts_eq, M.bind_of_error (popWord_error_first (s := s.past 1 6) hsp)]
    rfl

/-- Two bytes pushed lie in the two cells from SP down. -/
theorem read_pushed_pushed {s : State} (hram : s.ram.wf Config.ramSize = true) (b c : Byte) :
    ((s.pushed b).pushed c).ram.read (0x0100 + s.sp.toNat) = b ∧
      ((s.pushed b).pushed c).ram.read (0x0100 + (s.sp - 1).toNat) = c := by
  have hcells : ¬ 0x0100 + s.sp.toNat = 0x0100 + (s.sp - 1).toNat := by bv_omega
  rw [State.pushed_ram, State.pushed_sp, Memory.read_write (pushed_wf hram b), Memory.read_write (pushed_wf hram b)]
  refine ⟨?_, if_pos rfl⟩
  rw [if_neg hcells, State.pushed_ram, Memory.read_write hram, if_pos rfl]

/-- Settles O47: the two cells that RTS reads are those that JSR wrote, and reading JSR's target keeps the registers
and RAM. -/
theorem callThenReturn : Obligations.CallThenReturn := by
  intro s u hram hcall
  obtain ⟨target, t, hresolve, hroom, rfl⟩ := exec_jsr_inv hcall
  obtain ⟨htram, -⟩ := (Keeps.resolve SameMemory.loadFrame (lookup 0x20)).of_ok hresolve
  have hregs : getRegisters t = getRegisters (s.past 3 6) := resolve_registers hresolve
  have hsp : t.sp = s.sp := resolve_past_sp hresolve
  obtain ⟨hhigh, hlow⟩ := read_pushed_pushed (htram ▸ hram) (hi (s.pc + 2)) (lo (s.pc + 2))
  have hsp2 : t.sp - 1 - 1 + 2 = t.sp := by bv_omega
  have hsp1 : t.sp - 1 - 1 + 1 = t.sp - 1 := by bv_omega
  have hleft : (t.sp - 1 - 1).toNat ≤ 0xFD := by rw [hsp]; bv_omega
  refine ⟨_, exec_rts_ok hleft, ?pc, hsp2.trans hsp, congrArg Registers.p hregs, congrArg Registers.a hregs,
    congrArg Registers.x hregs, congrArg Registers.y hregs⟩
  simp only [State.setPc_pc, State.setPc_ram, State.setPc_sp, State.pushed_sp, hsp2, hsp1, hhigh, hlow, cat_hi_lo]
  bv_omega

/-! The branches (R121 to R129). -/

section
variable {s t : State} {d : Descriptor} {f : Flag} {wanted : Bool}

/-- The resolver of a displacement is one load and the penalty of the target (40_engine.md R71, R72). -/
theorem resolve_relative_ok {b : Byte} (hmode : d.mode = .relative) (h : busLoad (s.pc - 1) s = .ok b t) :
    resolve d s = .ok (s.pc + sext16 b) (t.addCycles (penaltyCycles d (s.pc + sext16 b) s.pc)) := by
  have hpc : t.pc = s.pc := congrArg Registers.pc (busLoad_registers h)
  have hoperand : operand8 s = .ok b t := h
  simp [resolve, hmode, hoperand, hpc]

theorem resolve_relative_error {c : Cause} (hmode : d.mode = .relative) (h : busLoad (s.pc - 1) s = .error c t) :
    resolve d s = .error c t := by
  have hoperand : operand8 s = .error c t := h
  simp [resolve, hmode, hoperand]

theorem penaltyCycles_flagged (h : d.canCrossPage = true) (r src : Word) :
    penaltyCycles d r src = if hi r = hi src then 0 else 1 := by
  simp [penaltyCycles, h]

theorem branchOp_notTaken (h : s.flag f ≠ wanted) : branchOp f wanted d s = .ok () s := by
  rw [branchOp, M.bind_of_ok (readState_apply s), if_neg h, M.pure_apply]

/-- A taken branch is a cycle, the resolver and a write of PC (R121). -/
theorem branchOp_taken (h : s.flag f = wanted) :
    branchOp f wanted d s = (resolve d >>= fun target => update fun t => t.setPc target) (s.addCycles 1) := by
  rw [branchOp, M.bind_of_ok (readState_apply s), if_pos h, M.bind_of_ok (update_apply _ s)]

theorem branchOp_taken_ok {b : Byte} (hmode : d.mode = .relative)
    (hcross : d.canCrossPage = true) (h : s.flag f = wanted) (hload : busLoad (s.pc - 1) (s.addCycles 1) = .ok b t) :
    branchOp f wanted d s = .ok () ((t.addCycles (if hi (s.pc + sext16 b) = hi s.pc then 0 else 1)).setPc
      (s.pc + sext16 b)) := by
  rw [branchOp_taken h, M.bind_of_ok (resolve_relative_ok hmode hload), update_apply, penaltyCycles_flagged hcross,
    State.addCycles_pc]

theorem branchOp_taken_error {c : Cause} (hmode : d.mode = .relative)
    (h : s.flag f = wanted) (hload : busLoad (s.pc - 1) (s.addCycles 1) = .error c t) :
    branchOp f wanted d s = .error c t := by
  rw [branchOp_taken h, M.bind_of_error (resolve_relative_error hmode hload)]

end

/-- Settles O48: the eight rows are one handler, `branchOp`, on a flag and the value it wants; a quiet displacement
leaves the state as it is. -/
theorem branchesTestOneFlag : Obligations.BranchesTestOneFlag := by
  intro i op mnemonic flag wanted hrow
  have hbranch : lookup op = ⟨op, mnemonic, 2, 2, true, .relative⟩ ∧ decode op = i ∧
      ∀ s, exec i s = runInstr i (branchOp flag wanted) s := by
    simp only [List.mem_cons, Prod.mk.injEq, List.not_mem_nil, or_false] at hrow
    rcases hrow with ⟨rfl, rfl, rfl, rfl, rfl⟩ | ⟨rfl, rfl, rfl, rfl, rfl⟩ | ⟨rfl, rfl, rfl, rfl, rfl⟩ |
      ⟨rfl, rfl, rfl, rfl, rfl⟩ | ⟨rfl, rfl, rfl, rfl, rfl⟩ | ⟨rfl, rfl, rfl, rfl, rfl⟩ |
      ⟨rfl, rfl, rfl, rfl, rfl⟩ | ⟨rfl, rfl, rfl, rfl, rfl⟩ <;> exact ⟨rfl, rfl, fun _ => rfl⟩
  obtain ⟨hlookup, hdecode, hx⟩ := hbranch
  have hmode : (lookup op).mode = .relative := by rw [hlookup]
  have hcross : (lookup op).canCrossPage = true := by rw [hlookup]
  refine ⟨hlookup, hdecode, fun s => ?_⟩
  have hexec : exec i s = outcome (branchOp flag wanted (lookup op) (s.past 2 2)) :=
    exec_eq_outcome_past hlookup hdecode hx s
  have haddr : (s.past 2 2).pc - 1 = s.pc + 1 := by rw [State.past_pc]; bv_omega
  refine ⟨fun hnot => ?notTaken, fun htaken => ?taken⟩
  case notTaken => rw [hexec, branchOp_notTaken (s := s.past 2 2) hnot, outcome_ok]
  case taken =>
    have hok : ∀ b t, busLoad (s.pc + 1) (s.past 2 3) = .ok b t → exec i s =
        .next ((t.addCycles (if hi (s.pc + 2 + sext16 b) = hi (s.pc + 2) then 0 else 1)).setPc
          (s.pc + 2 + sext16 b)) := by
      intro b t hload
      rw [hexec, branchOp_taken_ok (s := s.past 2 2) hmode hcross htaken (haddr ▸ hload)]
      rfl
    refine ⟨fun b hquiet => ?_, hok, fun c t hload => ?_⟩
    · rw [hok b _ (busLoad_quiet hquiet), State.past, addCycles_addCycles]
      rfl
    · rw [hexec, branchOp_taken_error (s := s.past 2 2) hmode htaken (haddr ▸ hload), outcome_error]

end Sys2Proof.Machine
end

section
/-! Stack, flag and system instructions (45_stack_flags_system.md): each handler is a stack operation, the interrupt
entry, the return beside it, or a single change of the state, made past the opcode; how far it gets depends on SP
alone. -/

namespace Sys2Proof.Machine

/-! PHA and PHP (R130, R131). -/

theorem exec_pha_eq (s : State) : exec .pha s = outcome (push s.a (s.past 1 3)) :=
  exec_eq_outcome_past (op := 0x48) rfl rfl exec_pha s

theorem exec_php_eq (s : State) : exec .php s = outcome (push (s.p ||| 0x30) (s.past 1 3)) :=
  exec_eq_outcome_past (op := 0x08) rfl rfl exec_php s

/-- Settles O49: both are one push, which answers exactly where SP is not 0x00. -/
theorem pushInstructions : Obligations.PushInstructions := by
  refine ⟨rfl, rfl, rfl, rfl, fun s => ⟨fun hroom => ?room, fun hfull => ?full⟩⟩
  case room =>
    have hpush := push_ok (s := s.past 1 3) hroom
    rw [exec_pha_eq, exec_php_eq, hpush, hpush]
    exact ⟨rfl, rfl⟩
  case full =>
    have hpush := push_error (s := s.past 1 3) hfull
    rw [exec_pha_eq, exec_php_eq, hpush, hpush]
    exact ⟨rfl, rfl⟩

/-! PLA and PLP (R132, R133). -/

theorem exec_pla_eq (s : State) :
    exec .pla s = outcome ((pop >>= fun v => update fun t => (t.setA v).setZN v) (s.past 1 4)) :=
  exec_eq_outcome_past (op := 0x68) rfl rfl exec_pla s

theorem exec_plp_eq (s : State) : exec .plp s = outcome (popStatus (s.past 1 4)) :=
  exec_eq_outcome_past (op := 0x28) rfl rfl exec_plp s

/-- Settles O50: both are one pop and a write of registers; the pop answers exactly where SP is not 0xFF. -/
theorem pullInstructions : Obligations.PullInstructions := by
  refine ⟨rfl, rfl, rfl, rfl, fun s => ⟨fun hleft => ?left, fun hempty => ?empty⟩⟩
  case left =>
    rw [exec_pla_eq, exec_plp_eq, M.bind_of_ok (pop_ok (s := s.past 1 4) hleft), popStatus_ok (s := s.past 1 4) hleft]
    exact ⟨rfl, rfl⟩
  case empty =>
    rw [exec_pla_eq, exec_plp_eq, M.bind_of_error (pop_error (s := s.past 1 4) hempty),
      popStatus_error (s := s.past 1 4) hempty]
    exact ⟨rfl, rfl⟩

/-! BRK (R142). -/

/-- The return address of BRK is two past its opcode: the advance made one, the handler the other. -/
theorem exec_brk_eq (s : State) :
    exec .brk s = outcome (intSeq (s.pc + 2) true Config.vecIrq (s.past 1 7)) := by
  have hreturn : (s.past 1 7).pc + 1 = s.pc + 2 := by rw [State.past_pc]; bv_omega
  rw [← hreturn]
  exact exec_eq_outcome_past (op := 0x00) rfl rfl exec_brk s

/-- Settles O52: the interrupt entry, in the four cases of SP; the IRQ vector lies in ROM, so its load answers. -/
theorem brkTakesTheInterruptEntry : Obligations.BrkTakesTheInterruptEntry := by
  refine ⟨rfl, rfl, fun s => ?_⟩
  rw [exec_brk_eq]
  refine ⟨fun hroom => ?room, fun hsp => ?third, fun hsp => ?second, fun hsp => ?first⟩
  case room =>
    have hvector : ∀ t : State, t.prg = s.prg → t.banks = s.banks → busLoad16 Config.vecIrq t =
        .ok (cat (s.prg.read (s.banks.prgSize - 1)) (s.prg.read (s.banks.prgSize - 2))) t := by
      intro t hprg hbanks
      rw [busLoad16_vecIrq, hprg, hbanks]
    exact congrArg outcome (intSeq_ok (s := s.past 1 7) hroom hvector _ true)
  case third => exact congrArg outcome (intSeq_error_third (s := s.past 1 7) hsp _ _ _)
  case second => exact congrArg outcome (intSeq_error_second (s := s.past 1 7) hsp _ _ _)
  case first => exact congrArg outcome (intSeq_error_first (s := s.past 1 7) hsp _ _ _)

/-! RTI (R143). -/

theorem exec_rti_eq (s : State) : exec .rti s = outcome (returnSeq (s.past 1 6)) :=
  exec_eq_outcome_past (op := 0x40) rfl rfl exec_rti s

/-- The state once the return has popped its status byte. -/
def State.statusPopped (s : State) : State := (s.setP (pulledStatus s.p s.top)).setSp (s.sp + 1)

@[simp] theorem State.statusPopped_sp (s : State) : s.statusPopped.sp = s.sp + 1 := rfl

/-- After its status byte, the return is a pop of a word and a write of PC. -/
theorem returnSeq_of_status {s : State} (h : s.sp ≠ 0xFF) :
    returnSeq s = (popWord >>= fun target => update fun t => t.setPc target) s.statusPopped := by
  rw [returnSeq, M.bind_of_ok (popStatus_ok h)]
  rfl

theorem returnSeq_ok {s : State} (h : s.sp.toNat ≤ 0xFC) :
    returnSeq s = .ok () (((s.setP (pulledStatus s.p s.top)).setSp (s.sp + 3)).setPc
      (cat (s.ram.read (0x0100 + (s.sp + 3).toNat)) (s.ram.read (0x0100 + (s.sp + 2).toNat)))) := by
  have hstatus : s.sp ≠ 0xFF := by bv_omega
  have hlow : s.statusPopped.sp ≠ 0xFF := by rw [State.statusPopped_sp]; bv_omega
  have hhigh : s.statusPopped.sp ≠ 0xFE := by rw [State.statusPopped_sp]; bv_omega
  have hsp2 : s.statusPopped.sp + 1 = s.sp + 2 := by rw [State.statusPopped_sp]; bv_omega
  have hsp3 : s.statusPopped.sp + 2 = s.sp + 3 := by rw [State.statusPopped_sp]; bv_omega
  rw [returnSeq_of_status hstatus, M.bind_of_ok (popWord_ok hlow hhigh), hsp2, hsp3]
  rfl

/-- The return faults at the pop that finds no byte, the earlier ones done and P restored. -/
theorem returnSeq_error_first {s : State} (h : s.sp = 0xFF) :
    returnSeq s = .error (.memory (.stackUnderflow 0xFF)) s := by
  rw [returnSeq, M.bind_of_error (popStatus_error h)]

theorem returnSeq_error_second {s : State} (h : s.sp = 0xFE) :
    returnSeq s = .error (.memory (.stackUnderflow 0xFF)) ((s.setP (pulledStatus s.p s.top)).setSp 0xFF) := by
  have hsp : s.sp + 1 = 0xFF := by rw [h]; rfl
  have hempty : s.statusPopped.sp = 0xFF := hsp
  rw [returnSeq_of_status (by rw [h]; decide), M.bind_of_error (popWord_error_first hempty), State.statusPopped, hsp]

theorem returnSeq_error_third {s : State} (h : s.sp = 0xFD) :
    returnSeq s = .error (.memory (.stackUnderflow 0xFF)) ((s.setP (pulledStatus s.p s.top)).setSp 0xFF) := by
  have hlast : s.statusPopped.sp = 0xFE := by rw [State.statusPopped_sp, h]; rfl
  rw [returnSeq_of_status (by rw [h]; decide), M.bind_of_error (popWord_error_second hlast)]
  rfl

/-- Settles O53: the return sequence, in the four cases of SP. -/
theorem rtiRestoresStatusAndAddress : Obligations.RtiRestoresStatusAndAddress := by
  refine ⟨rfl, rfl, fun s => ?_⟩
  rw [exec_rti_eq]
  refine ⟨fun hleft => ?left, fun hsp => ?third, fun hsp => ?second, fun hsp => ?first⟩
  case left => exact congrArg outcome (returnSeq_ok (s := s.past 1 6) hleft)
  case third => exact congrArg outcome (returnSeq_error_third (s := s.past 1 6) hsp)
  case second => exact congrArg outcome (returnSeq_error_second (s := s.past 1 6) hsp)
  case first => exact congrArg outcome (returnSeq_error_first (s := s.past 1 6) hsp)

/-! The flag instructions and NOP (R134 to R141). -/

/-- Settles O51: the seven rows are one handler, `flagOp`, on a flag and its value; neither it nor NOP's can raise. -/
theorem flagInstructionsAndNop : Obligations.FlagInstructionsAndNop := by
  refine ⟨fun i op mnemonic flag value hrow => ?flags, rfl, rfl, ?nop⟩
  case flags =>
    have hflag : lookup op = ⟨op, mnemonic, 1, 2, false, .implied⟩ ∧ decode op = i ∧
        ∀ s, exec i s = runInstr i (flagOp flag value) s := by
      simp only [List.mem_cons, Prod.mk.injEq, List.not_mem_nil, or_false] at hrow
      rcases hrow with ⟨rfl, rfl, rfl, rfl, rfl⟩ | ⟨rfl, rfl, rfl, rfl, rfl⟩ | ⟨rfl, rfl, rfl, rfl, rfl⟩ |
        ⟨rfl, rfl, rfl, rfl, rfl⟩ | ⟨rfl, rfl, rfl, rfl, rfl⟩ | ⟨rfl, rfl, rfl, rfl, rfl⟩ |
        ⟨rfl, rfl, rfl, rfl, rfl⟩ <;> exact ⟨rfl, rfl, fun _ => rfl⟩
    obtain ⟨hlookup, hdecode, hx⟩ := hflag
    exact ⟨hlookup, hdecode, exec_eq_next_past hlookup hdecode hx fun _ => update_apply _⟩
  case nop => exact exec_eq_next_past (op := 0xEA) rfl rfl exec_nop fun _ => M.pure_apply ()

end Sys2Proof.Machine
end

section
/-! Undocumented opcodes (46_unofficial.md): *NOP reads and drops, *LAX and *SAX are one operand access, and a composite is
Modify and then ReadOperand on its own descriptor. -/

namespace Sys2Proof.Machine

/-! *NOP (R145). -/

section
variable {d : Descriptor}

theorem nopUOp_implied (h : d.mode = .implied) : nopUOp d = pure () := by
  rw [nopUOp, h]

theorem nopUOp_immediate (h : d.mode = .immediate) : nopUOp d = resolve d >>= fun _ => pure () := by
  rw [nopUOp, h]

theorem nopUOp_memory (himplied : d.mode ≠ .implied) (himmediate : d.mode ≠ .immediate) :
    nopUOp d = resolve d >>= fun a => busLoad a >>= fun _ => pure () := by
  unfold nopUOp
  split
  next hmode => exact absurd hmode himplied
  next hmode => exact absurd hmode himmediate
  next => rfl

/-- The Immediate operand is one load, of the byte before the advanced PC (40_engine.md R72). -/
theorem resolve_immediate (h : d.mode = .immediate) (s : State) :
    resolve d s = (busLoad (s.pc - 1) >>= fun b => pure (zext16 b)) s := by
  rw [resolve, h]
  rfl

end

/-- The rows of the table for one mnemonic, given by opcode, where the check of each row holds. -/
theorem rows_of_check {mnemonic : String} {i : Byte → Instr} {rows : List EncodingRow}
    (h : (rows.all fun r =>
      lookup r.1 == ⟨r.1, mnemonic, r.2.2.1, r.2.2.2.1, r.2.2.2.2, r.2.1⟩ && decode r.1 == i r.1) = true) :
    ∀ op mode length cycles cross, (op, mode, length, cycles, cross) ∈ rows →
      lookup op = ⟨op, mnemonic, length, cycles, cross, mode⟩ ∧ decode op = i op := by
  intro op mode length cycles cross hrow
  simpa using List.all_eq_true.mp h _ hrow

/-- Settles O54: in each of the three kinds of mode the handler is the loads that the statement follows, their value
dropped; the Immediate form is two bytes long, so its operand is the byte after the opcode. -/
theorem undocumentedNopsOnlyRead : Obligations.UndocumentedNopsOnlyRead := by
  refine ⟨rows_of_check (by decide), fun op d s hd => ?_⟩
  have hexec : exec (.nopU op) s = outcome (nopUOp d (s.advance d)) := by rw [exec_nopU, runInstr_of_descriptor hd]
  refine ⟨fun hmode => ?implied, fun hmode => ?immediate, fun himplied himmediate => ?memory⟩
  case implied => rw [hexec, nopUOp_implied hmode, M.pure_apply, outcome_ok]
  case immediate =>
    have hlength : d.length = 2 := by
      obtain ⟨-, -, -, -, hmodes, -, hlengths⟩ := descriptor_facts hd
      rw [hlengths, ← hmodes, hmode, Mode.length]
    have haddr : (s.advance d).pc - 1 = s.pc + 1 := by
      rw [State.advance_pc, hlength]
      bv_omega
    have hresolve := resolve_immediate hmode (s.advance d)
    rw [haddr] at hresolve
    rw [hexec, nopUOp_immediate hmode]
    refine ⟨fun b t hload => ?_, fun c t hload => ?_⟩
    · rw [M.bind_of_ok (hresolve.trans (M.bind_of_ok hload)), M.pure_apply, outcome_ok]
    · rw [M.bind_of_error (hresolve.trans (M.bind_of_error hload)), outcome_error]
  case memory =>
    rw [hexec, nopUOp_memory himplied himmediate]
    have hok : ∀ r t v u, resolve d (s.advance d) = .ok r t → busLoad r t = .ok v u →
        outcome ((resolve d >>= fun a => busLoad a >>= fun _ => pure ()) (s.advance d)) = .next u := by
      intro r t v u hresolve hload
      rw [M.bind_of_ok hresolve, M.bind_of_ok hload, M.pure_apply, outcome_ok]
    refine ⟨fun r v heffective hquiet => hok r _ v _ (resolve_quiet heffective) (busLoad_quiet hquiet),
      fun c t hresolve => ?_, fun r t hresolve => ⟨fun v u => hok r t v u hresolve, fun c u hload => ?_⟩⟩
    · rw [M.bind_of_error hresolve, outcome_error]
    · rw [M.bind_of_ok hresolve, M.bind_of_error hload, outcome_error]

/-! *LAX and *SAX (R146, R147). -/

/-- SetZN of one byte twice is SetZN once (40_engine.md R77). -/
theorem znFlags_znFlags (p r : Byte) : znFlags (znFlags p r) r = znFlags p r :=
  status_ext fun f => by cases f <;> simp

/-- LDA and then TAX: one ReadOperand, the copy writing the flags that LDA wrote. -/
theorem composite_lda_tax (d : Descriptor) :
    composite ldaOp taxOp d = readOperand d >>= fun m => update fun s => ((s.setA m).setX m).setZN m := by
  funext s
  cases hread : readOperand d s with
  | ok m t =>
    have hlda : ldaOp d s = .ok () ((t.setA m).setZN m) := M.bind_of_ok hread
    rw [composite, M.bind_of_ok hlda, M.bind_of_ok hread]
    exact congrArg (fun p => EStateM.Result.ok () (((t.setA m).setX m).setP p)) (znFlags_znFlags t.p m)
  | error c t =>
    have hlda : ldaOp d s = .error c t := M.bind_of_error hread
    rw [composite, M.bind_of_error hlda, M.bind_of_error hread]

/-- Settles O55: *LAX is ReadOperand and one change of A, X and P (`composite_lda_tax`), *SAX StoreOperand of `A & X`. -/
theorem laxAndSax : Obligations.LaxAndSax := by
  refine ⟨.of_check (by decide) (by decide), .of_check (by decide) (by decide), fun md => ⟨?lax, ?sax⟩⟩
  case lax => exact .of_handler (exec_laxU md) composite_lda_tax
  case sax => exact .of_handler (exec_saxU md) fun _ _ => rfl

/-! The read-modify-write composites (R144, R149 to R154). -/

/-- A composite in the modes of its mnemonic, none of them flagged `can_cross_page` and all of them memory modes. -/
theorem CompositeOf.of_mnemonic {i : Mode → Instr} {md : Mode} {f : Byte → State → Byte × State}
    {g : Byte → State → State} {first second : Descriptor → M Unit}
    (hx : ∀ s, exec (i md) s = runInstr (i md) (composite first second) s)
    (hfirst : ∀ d, first d = modifyOperand d f)
    (hsecond : ∀ d, second d = readOperand d >>= fun m => update fun s => g m s)
    (hcheck : allModes.all (fun m =>
      (i m).descriptor.all fun d => !d.canCrossPage && !modeIsValue d.mode) = true) : CompositeOf (i md) f g := by
  have hmode : ∀ d, (i md).descriptor = some d → d.canCrossPage = false ∧ modeIsValue d.mode = false := by
    intro d hd
    simpa [hd] using List.all_eq_true.mp hcheck md (mem_allModes md)
  exact .of_handler hx hfirst hsecond (fun d hd => (hmode d hd).1) fun d hd => (hmode d hd).2

/-- A byte stored in RAM is the byte read there next (20_memory.md R49). -/
theorem quietByte?_of_quietStore? {s t : State} {r : Word} {v : Byte} (hram : s.ram.wf Config.ramSize = true)
    (hr : r.toNat ≤ 0x1FFF) (h : s.quietStore? r v = some t) : t.quietByte? r = some v := by
  obtain ⟨hseen, -, -⟩ := storeSeenByLoadsAndFetch s t r v hram hr (busStore_quiet h)
  exact hseen r ((sameCell_iff (s.route_ram hr)).mpr (s.route_ram hr))

/-- Settles O56: each handler is Modify of the first part's byte function and ReadOperand of the second part's change
(`CompositeOf.of_mnemonic`). -/
theorem compositesRunBothOperations : Obligations.CompositesRunBothOperations := by
  refine ⟨fun mnemonic i base hrow => ?rows, fun md => ⟨?dcp, ?isc, ?slo, ?rla, ?sre, ?rra⟩,
    fun _ _ _ _ => quietByte?_of_quietStore?⟩
  case rows =>
    simp only [List.mem_cons, Prod.mk.injEq, List.not_mem_nil, or_false] at hrow
    rcases hrow with ⟨rfl, rfl, rfl⟩ | ⟨rfl, rfl, rfl⟩ | ⟨rfl, rfl, rfl⟩ | ⟨rfl, rfl, rfl⟩ | ⟨rfl, rfl, rfl⟩ |
      ⟨rfl, rfl, rfl⟩ <;> exact .of_check (by decide) (by decide)
  case dcp => exact .of_mnemonic (exec_dcpU md) (fun _ => rfl) (fun _ => rfl) (by decide)
  case isc => exact .of_mnemonic (exec_iscU md) (fun _ => rfl) (fun _ => rfl) (by decide)
  case slo => exact .of_mnemonic (exec_sloU md) (fun _ => rfl) (fun _ => rfl) (by decide)
  case rla => exact .of_mnemonic (exec_rlaU md) (fun _ => rfl) (fun _ => rfl) (by decide)
  case sre => exact .of_mnemonic (exec_sreU md) (fun _ => rfl) (fun _ => rfl) (by decide)
  case rra => exact .of_mnemonic (exec_rraU md) (fun _ => rfl) (fun _ => rfl) (by decide)

end Sys2Proof.Machine
end

section
/-! The faults of a step (30_encoding.md R59, 40_engine.md R72, 60_exceptions.md R156): what a handler raises is an
error of memory, since no row of the table resolves a mode without an operand; only an Illegal opcode raises NoHandler. -/

namespace Sys2Proof

/-- The modes that the resolver gives a value (40_engine.md R72). -/
def Mode.hasOperand : Mode → Bool
  | .implied | .illegal | .unknown => false
  | _ => true

/-- The modes of *NOP (46_unofficial.md R145). -/
theorem nopUMode_operand (op : Byte) : nopUMode op = .implied ∨ (nopUMode op).hasOperand = true := by
  unfold nopUMode
  split_ifs <;> simp [Mode.hasOperand]

/-- A decoded ILLEGAL carries the opcode it was decoded from (30_encoding.md R63). -/
theorem decode_illegal_opcode {op op' : Byte} (h : decode op = .illegal op') : op' = op := by
  obtain ⟨-, hopcode, -⟩ := descriptor_facts (descriptor_decode op)
  rw [h, lookup_opcode, Instr.opcode] at hopcode
  split at hopcode
  · exact Option.some.inj hopcode
  · cases hopcode

end Sys2Proof

namespace Sys2Proof.Machine

variable {α β : Type}

/-- A computation that raises nothing but errors of memory. -/
def RaisesMemory (m : M α) : Prop := ∀ s c t, m s = .error c t → ∃ e, c = .memory e

namespace RaisesMemory

protected theorem pure (v : α) : RaisesMemory (pure v : M α) := fun _ _ _ h => nomatch h

protected theorem raise (e : MemoryError) : RaisesMemory (raise (.memory e) : M α) := by
  rintro s c t ⟨⟩
  exact ⟨e, rfl⟩

protected theorem update (f : State → State) : RaisesMemory (update f) := fun _ _ _ h => nomatch h

protected theorem applyByte (f : Byte → State → Byte × State) (v : Byte) : RaisesMemory (applyByte f v) :=
  fun _ _ _ h => nomatch h

protected theorem bind {m : M α} {f : α → M β} (hm : RaisesMemory m) (hf : ∀ v, RaisesMemory (f v)) :
    RaisesMemory (m >>= f) := by
  intro s c u h
  cases hfirst : m s with
  | ok v t =>
    rw [M.bind_of_ok hfirst] at h
    exact hf v t c u h
  | error b t =>
    rw [M.bind_of_error hfirst] at h
    cases h
    exact hm s c u hfirst

protected theorem readState_bind {f : State → M β} (hf : ∀ s, RaisesMemory (f s)) : RaisesMemory (readState >>= f) :=
  .bind (fun _ _ _ h => nomatch h) hf

protected theorem ite {c : Prop} [Decidable c] {m n : M α} (hm : RaisesMemory m) (hn : RaisesMemory n) :
    RaisesMemory (if c then m else n) := by
  split <;> assumption

/-- The router and every device refuse an access with an error of memory (60_exceptions.md R156). -/
protected theorem busLoad (a : Word) : RaisesMemory (busLoad a) := by
  intro s c t h
  unfold Machine.busLoad at h
  split at h
  · cases h; exact ⟨_, rfl⟩
  · split at h
    · cases h
    · cases h; exact ⟨_, rfl⟩

protected theorem busStore (a : Word) (v : Byte) : RaisesMemory (busStore a v) := by
  intro s c t h
  unfold Machine.busStore at h
  split at h
  · cases h; exact ⟨_, rfl⟩
  · split at h
    · cases h
    · cases h; exact ⟨_, rfl⟩

protected theorem busLoad16 (a : Word) : RaisesMemory (busLoad16 a) :=
  .bind (.busLoad a) fun _ => .bind (.busLoad _) fun _ => .pure _

protected theorem operand8 : RaisesMemory operand8 := .readState_bind fun _ => .busLoad _

protected theorem operand16 : RaisesMemory operand16 :=
  .readState_bind fun _ => .ite (.busLoad16 _) (.bind (.busLoad _) fun _ => .bind (.busLoad _) fun _ => .pure _)

protected theorem push (v : Byte) : RaisesMemory (push v) :=
  .readState_bind fun _ => .ite (.raise _) (.bind (.busStore _ v) fun _ => .update _)

protected theorem pop : RaisesMemory pop :=
  .readState_bind fun _ => .ite (.raise _) (.bind (.update _) fun _ => .busLoad _)

protected theorem pushWord (w : Word) : RaisesMemory (pushWord w) := .bind (.push _) fun _ => .push _

protected theorem popWord : RaisesMemory popWord := .bind .pop fun _ => .bind .pop fun _ => .pure _

protected theorem intSeq (ret : Word) (brk : Bool) (vec : Word) : RaisesMemory (intSeq ret brk vec) :=
  .bind (.pushWord ret) fun _ => .readState_bind fun _ => .bind (.push _) fun _ => .bind (.update _) fun _ =>
    .bind (.busLoad16 vec) fun _ => .update _

protected theorem popStatus : RaisesMemory popStatus := .bind .pop fun _ => .update _

protected theorem returnSeq : RaisesMemory returnSeq := .bind .popStatus fun _ => .bind .popWord fun _ => .update _

protected theorem indexed (d : Descriptor) (base : Word) (index : Byte) : RaisesMemory (indexed d base index) :=
  .bind (.update _) fun _ => .pure _

section
variable {d : Descriptor}

/-- InvalidMode is raised for the three modes without an operand alone (40_engine.md R72). -/
protected theorem resolve (h : d.mode.hasOperand = true) : RaisesMemory (resolve d) := by
  unfold Machine.resolve
  cases hmode : d.mode with
  | accumulator => exact .readState_bind fun _ => .pure _
  | immediate => exact .bind .operand8 fun _ => .pure _
  | zeroPage => exact .bind .operand8 fun _ => .pure _
  | zeroPageX => exact .bind .operand8 fun _ => .readState_bind fun _ => .pure _
  | zeroPageY => exact .bind .operand8 fun _ => .readState_bind fun _ => .pure _
  | absolute => exact .operand16
  | absoluteX => exact .bind .operand16 fun _ => .readState_bind fun _ => .indexed d _ _
  | absoluteY => exact .bind .operand16 fun _ => .readState_bind fun _ => .indexed d _ _
  | indirect => exact .bind .operand16 fun _ => .busLoad16 _
  | indirectX => exact .bind .operand8 fun _ => .readState_bind fun _ => .busLoad16 _
  | indirectY =>
    exact .bind .operand8 fun _ => .bind (.busLoad16 _) fun _ => .readState_bind fun _ => .indexed d _ _
  | relative => exact .bind .operand8 fun _ => .readState_bind fun _ => .bind (.update _) fun _ => .pure _
  | implied | illegal | unknown => simp [hmode, Mode.hasOperand] at h

protected theorem readOperand (h : d.mode.hasOperand = true) : RaisesMemory (readOperand d) :=
  .bind (.resolve h) fun _ => .ite (.pure _) (.busLoad _)

/-- A read of the operand, then a change made of it: the shape of the loads, the ALU operations and the compares. -/
protected theorem readThen (h : d.mode.hasOperand = true) (f : Byte → State → State) :
    RaisesMemory (readOperand d >>= fun m => update fun s => f m s) :=
  .bind (.readOperand h) fun _ => .update _

/-- A store of a byte taken from the registers. -/
protected theorem storeByte (h : d.mode.hasOperand = true) (v : State → Byte) :
    RaisesMemory (readState >>= fun s => storeOperand d (v s)) :=
  .readState_bind fun _ => .bind (.resolve h) fun _ => .busStore _ _

protected theorem modifyOperand (h : d.mode.hasOperand = true) (f : Byte → State → Byte × State) :
    RaisesMemory (modifyOperand d f) :=
  .ite (.readState_bind fun _ => .bind (.applyByte f _) fun _ => .update _)
    (.bind (.resolve h) fun _ => .bind (.busLoad _) fun _ => .bind (.applyByte f _) fun _ => .busStore _ _)

protected theorem modifyThenRead (h : d.mode.hasOperand = true) (f : Byte → State → Byte × State)
    (g : Byte → State → State) :
    RaisesMemory (modifyOperand d f >>= fun _ => readOperand d >>= fun m => update fun s => g m s) :=
  .bind (.modifyOperand h f) fun _ => .readThen h g

protected theorem branchOp (h : d.mode.hasOperand = true) (f : Flag) (wanted : Bool) :
    RaisesMemory (branchOp f wanted d) :=
  .readState_bind fun _ => .ite (.bind (.update _) fun _ => .bind (.resolve h) fun _ => .update _) (.pure _)

/-- An Implied *NOP resolves nothing (46_unofficial.md R145). -/
protected theorem nopUOp (h : d.mode = .implied ∨ d.mode.hasOperand = true) : RaisesMemory (nopUOp d) := by
  by_cases himplied : d.mode = .implied
  · rw [nopUOp_implied himplied]
    exact .pure _
  · have hoperand := h.resolve_left himplied
    by_cases himmediate : d.mode = .immediate
    · rw [nopUOp_immediate himmediate]
      exact .bind (.resolve hoperand) fun _ => .pure _
    · rw [nopUOp_memory himplied himmediate]
      exact .bind (.resolve hoperand) fun _ => .bind (.busLoad _) fun _ => .pure _

end

end RaisesMemory

/-- An outcome that is a next state or a fault of memory. -/
def NextOrMemoryFault (r : Host.Outcome State Fault Refusal) : Prop :=
  (∃ t, r = .next t) ∨ ∃ e t, r = .fault (.memory e t)

theorem RaisesMemory.outcome {m : M Unit} (h : RaisesMemory m) (s : State) : NextOrMemoryFault (outcome (m s)) := by
  cases hm : m s with
  | ok v t => exact .inl ⟨t, rfl⟩
  | error c t =>
    obtain ⟨e, rfl⟩ := h s c t hm
    exact .inr ⟨e, t, rfl⟩

/-- An instruction that, where it is one of the table, answers a next state or faults in memory. -/
def InstrFaultsInMemory (i : Instr) : Prop := i.wf = true → ∀ s, NextOrMemoryFault (exec i s)

namespace InstrFaultsInMemory

variable {i : Instr} {handler : Descriptor → M Unit}

theorem of_mode {P : Mode → Prop} (hx : ∀ s, exec i s = runInstr i handler s) (hmode : i.wf = true → P i.mode)
    (h : ∀ d : Descriptor, P d.mode → RaisesMemory (handler d)) : InstrFaultsInMemory i := by
  intro hwf s
  obtain ⟨d, hd⟩ := descriptor_of_wf hwf
  rw [hx, runInstr_of_descriptor hd]
  exact (h d (descriptor_mode hd ▸ hmode hwf)).outcome _

/-- An instruction that resolves its mode. -/
theorem of_operand (hx : ∀ s, exec i s = runInstr i handler s) (hmode : i.wf = true → i.mode.hasOperand = true)
    (h : ∀ d : Descriptor, d.mode.hasOperand = true → RaisesMemory (handler d)) : InstrFaultsInMemory i :=
  of_mode (P := fun m => m.hasOperand = true) hx hmode h

/-- An instruction that resolves nothing. -/
theorem of_handler (hx : ∀ s, exec i s = runInstr i handler s) (h : ∀ d, RaisesMemory (handler d)) :
    InstrFaultsInMemory i :=
  of_mode (P := fun _ => True) hx (fun _ => trivial) fun d _ => h d

theorem of_update {f : State → State} (hx : ∀ s, exec i s = runInstr i (fun _ => update f) s) :
    InstrFaultsInMemory i :=
  of_handler hx fun _ => .update f

theorem of_readThen {f : Byte → State → State}
    (hx : ∀ s, exec i s = runInstr i (fun d => readOperand d >>= fun m => update fun s => f m s) s)
    (hmode : i.wf = true → i.mode.hasOperand = true) : InstrFaultsInMemory i :=
  of_operand hx hmode fun _ h => .readThen h f

theorem of_storeByte {v : State → Byte}
    (hx : ∀ s, exec i s = runInstr i (fun d => readState >>= fun s => storeOperand d (v s)) s)
    (hmode : i.wf = true → i.mode.hasOperand = true) : InstrFaultsInMemory i :=
  of_operand hx hmode fun _ h => .storeByte h v

theorem of_modify {f : Byte → State → Byte × State} (hx : ∀ s, exec i s = runInstr i (fun d => modifyOperand d f) s)
    (hmode : i.wf = true → i.mode.hasOperand = true) : InstrFaultsInMemory i :=
  of_operand hx hmode fun _ h => .modifyOperand h f

theorem of_composite {f : Byte → State → Byte × State} {g : Byte → State → State}
    (hx : ∀ s, exec i s =
      runInstr i (fun d => modifyOperand d f >>= fun _ => readOperand d >>= fun m => update fun s => g m s) s)
    (hmode : i.wf = true → i.mode.hasOperand = true) : InstrFaultsInMemory i :=
  of_operand hx hmode fun _ h => .modifyThenRead h f g

theorem of_branch {f : Flag} {wanted : Bool} (hx : ∀ s, exec i s = runInstr i (branchOp f wanted) s)
    (hmode : i.mode = .relative) : InstrFaultsInMemory i :=
  of_operand hx (fun _ => by rw [hmode]; rfl) fun _ h => .branchOp h f wanted

end InstrFaultsInMemory

/-- Every instruction but ILLEGAL, its handler read line by line. -/
theorem instrFaultsInMemory {i : Instr} (hi : ∀ op, i ≠ .illegal op) : InstrFaultsInMemory i := by
  cases i with
  | lda m => exact .of_readThen (exec_lda m) (by cases m <;> decide)
  | ldx m => exact .of_readThen (exec_ldx m) (by cases m <;> decide)
  | ldy m => exact .of_readThen (exec_ldy m) (by cases m <;> decide)
  | sta m => exact .of_storeByte (exec_sta m) (by cases m <;> decide)
  | stx m => exact .of_storeByte (exec_stx m) (by cases m <;> decide)
  | sty m => exact .of_storeByte (exec_sty m) (by cases m <;> decide)
  | tax => exact .of_update exec_tax
  | tay => exact .of_update exec_tay
  | txa => exact .of_update exec_txa
  | tya => exact .of_update exec_tya
  | tsx => exact .of_update exec_tsx
  | txs => exact .of_update exec_txs
  | adc m => exact .of_readThen (exec_adc m) (by cases m <;> decide)
  | sbc m => exact .of_readThen (exec_sbc m) (by cases m <;> decide)
  | and m => exact .of_readThen (exec_and m) (by cases m <;> decide)
  | ora m => exact .of_readThen (exec_ora m) (by cases m <;> decide)
  | eor m => exact .of_readThen (exec_eor m) (by cases m <;> decide)
  | bit m => exact .of_readThen (exec_bit m) (by cases m <;> decide)
  | cmp m => exact .of_readThen (exec_cmp m) (by cases m <;> decide)
  | cpx m => exact .of_readThen (exec_cpx m) (by cases m <;> decide)
  | cpy m => exact .of_readThen (exec_cpy m) (by cases m <;> decide)
  | inc m => exact .of_modify (exec_inc m) (by cases m <;> decide)
  | dec m => exact .of_modify (exec_dec m) (by cases m <;> decide)
  | inx => exact .of_update exec_inx
  | iny => exact .of_update exec_iny
  | dex => exact .of_update exec_dex
  | dey => exact .of_update exec_dey
  | asl m => exact .of_modify (exec_asl m) (by cases m <;> decide)
  | lsr m => exact .of_modify (exec_lsr m) (by cases m <;> decide)
  | rol m => exact .of_modify (exec_rol m) (by cases m <;> decide)
  | ror m => exact .of_modify (exec_ror m) (by cases m <;> decide)
  | jmp m => exact .of_operand (exec_jmp m) (by cases m <;> decide) fun _ h => .bind (.resolve h) fun _ => .update _
  | jsr =>
    exact .of_operand exec_jsr (fun _ => rfl) fun _ h => .bind (.resolve h) fun _ => .readState_bind fun _ =>
      .bind (.pushWord _) fun _ => .update _
  | rts => exact .of_handler exec_rts fun _ => .bind .popWord fun _ => .update _
  | bcc => exact .of_branch exec_bcc rfl
  | bcs => exact .of_branch exec_bcs rfl
  | beq => exact .of_branch exec_beq rfl
  | bne => exact .of_branch exec_bne rfl
  | bmi => exact .of_branch exec_bmi rfl
  | bpl => exact .of_branch exec_bpl rfl
  | bvc => exact .of_branch exec_bvc rfl
  | bvs => exact .of_branch exec_bvs rfl
  | pha => exact .of_handler exec_pha fun _ => .readState_bind fun _ => .push _
  | php => exact .of_handler exec_php fun _ => .readState_bind fun _ => .push _
  | pla => exact .of_handler exec_pla fun _ => .bind .pop fun _ => .update _
  | plp => exact .of_handler exec_plp fun _ => .popStatus
  | clc => exact .of_update exec_clc
  | sec => exact .of_update exec_sec
  | cli => exact .of_update exec_cli
  | sei => exact .of_update exec_sei
  | cld => exact .of_update exec_cld
  | sed => exact .of_update exec_sed
  | clv => exact .of_update exec_clv
  | nop => exact .of_handler exec_nop fun _ => .pure _
  | brk => exact .of_handler exec_brk fun _ => .readState_bind fun _ => .intSeq _ _ _
  | rti => exact .of_handler exec_rti fun _ => .returnSeq
  | nopU op =>
    exact .of_mode (P := fun m => m = .implied ∨ m.hasOperand = true) (exec_nopU op) (fun _ => nopUMode_operand op)
      fun _ => .nopUOp
  | laxU m =>
    exact .of_operand (exec_laxU m) (by cases m <;> decide) fun _ h => .bind (.readThen h _) fun _ => .update _
  | saxU m => exact .of_storeByte (exec_saxU m) (by cases m <;> decide)
  | sbcU => exact .of_readThen exec_sbcU fun _ => rfl
  | dcpU m => exact .of_composite (exec_dcpU m) (by cases m <;> decide)
  | iscU m => exact .of_composite (exec_iscU m) (by cases m <;> decide)
  | sloU m => exact .of_composite (exec_sloU m) (by cases m <;> decide)
  | rlaU m => exact .of_composite (exec_rlaU m) (by cases m <;> decide)
  | sreU m => exact .of_composite (exec_sreU m) (by cases m <;> decide)
  | rraU m => exact .of_composite (exec_rraU m) (by cases m <;> decide)
  | illegal op => exact absurd rfl (hi op)

/-- All the ways in which a step can end: the second is that of an Illegal opcode (46_unofficial.md R155). -/
theorem step_outcomes (s : State) : NextOrMemoryFault (step s) ∨
    ∃ op t, busLoad s.pc s = .ok op t ∧ decode op = .illegal op ∧
      step s = .fault (.illegal (.noHandler op) (t.setPc (t.pc + 1))) := by
  cases hload : busLoad s.pc s with
  | error c t =>
    obtain ⟨e, rfl⟩ := RaisesMemory.busLoad s.pc s c t hload
    exact .inl (.inr ⟨e, t, step_of_error hload⟩)
  | ok op t =>
    rw [step_of_busLoad hload]
    by_cases hillegal : decode op = .illegal op
    · exact .inr ⟨op, t, rfl, hillegal, by rw [hillegal, exec_illegal_of_decode hillegal]⟩
    · refine .inl (instrFaultsInMemory (fun op' h => ?_) (decode_wf op) t)
      exact hillegal (decode_illegal_opcode h ▸ h)

/-- Settles O21: `step_outcomes` leaves no refusal and one fault that is not of memory. -/
theorem stepsFaultOnlyAsTheTableSays : Obligations.StepsFaultOnlyAsTheTableSays := by
  intro s
  rcases step_outcomes s with (⟨t, h⟩ | ⟨e, t, h⟩) | ⟨op, t, hload, hillegal, h⟩
  · simp [h]
  · simp [h]
  · rw [h]
    refine ⟨nofun, nofun, fun _ _ hsame => ?_⟩
    cases hsame
    exact ⟨hillegal, t, hload⟩

end Sys2Proof.Machine
end

section
/-! IRQ and NMI between steps (60_exceptions.md R160 to R163), and the return from an interrupt (R166): what every entry
leaves is one state, `State.entered`, from which RTI reads back what was pushed. -/

namespace Sys2Proof.Machine

/-- The vector that lies `k` bytes before the end of PRG (20_memory.md R47). -/
def State.romVector (s : State) (k : Nat) : Word :=
  cat (s.prg.read (s.banks.prgSize - k + 1)) (s.prg.read (s.banks.prgSize - k))

theorem busLoad16_vecIrq_romVector (s : State) : busLoad16 Config.vecIrq s = .ok (s.romVector 2) s := by
  rw [busLoad16_vecIrq, State.romVector]
  cases s.banks <;> rfl

theorem busLoad16_vecNmi_romVector (s : State) : busLoad16 Config.vecNmi s = .ok (s.romVector 6) s := by
  rw [busLoad16_vecNmi, State.romVector]
  cases s.banks <;> rfl

/-- The state after an interrupt entry that completes (60_exceptions.md R160). -/
def State.entered (s : State) (ret : Word) (brk : Bool) (target : Word) : State :=
  ((((s.pushed (hi ret)).pushed (lo ret)).pushed (if brk then pushedBreak s.p else pushedInterrupt s.p)).setFlag
    .interruptDisable true).setPc target

section
variable {s : State} {vec ret : Word} {brk : Bool} {k : Nat}

theorem intSeq_eq_entered (hvec : ∀ t, busLoad16 vec t = .ok (t.romVector k) t) (hroom : 3 ≤ s.sp.toNat) (ret : Word)
    (brk : Bool) : intSeq ret brk vec s = .ok () (s.entered ret brk (s.romVector k)) :=
  intSeq_ok hroom (fun t hprg hbanks => by rw [hvec, State.romVector, State.romVector, hprg, hbanks]) ret brk

/-- An entry that answers had room for its three bytes. -/
theorem intSeq_inv (hvec : ∀ t, busLoad16 vec t = .ok (t.romVector k) t) {t : State}
    (h : intSeq ret brk vec s = .ok () t) : 3 ≤ s.sp.toNat ∧ t = s.entered ret brk (s.romVector k) := by
  have hroom := intSeq_room h
  rw [intSeq_eq_entered hvec hroom] at h
  cases h
  exact ⟨hroom, rfl⟩

/-- `TakeInterrupt` is the entry with the interrupted PC, and `INT_CYCLES` after it (60_exceptions.md R161). -/
theorem takeInterrupt_eq (vec : Word) (s : State) :
    takeInterrupt vec s = (intSeq s.pc false vec >>= fun _ => update fun t => t.addCycles t.intCycles) s := by
  rw [takeInterrupt, M.bind_of_ok (readState_apply s)]

theorem takeInterrupt_ok (hvec : ∀ t, busLoad16 vec t = .ok (t.romVector k) t) (hroom : 3 ≤ s.sp.toNat) :
    takeInterrupt vec s = .ok () ((s.entered s.pc false (s.romVector k)).addCycles s.intCycles) := by
  rw [takeInterrupt_eq, M.bind_of_ok (intSeq_eq_entered hvec hroom s.pc false)]
  rfl

theorem takeInterrupt_error {c : Cause} {t : State} (h : intSeq s.pc false vec s = .error c t) :
    takeInterrupt vec s = .error c t := by
  rw [takeInterrupt_eq, M.bind_of_error h]

theorem takeInterrupt_inv (hvec : ∀ t, busLoad16 vec t = .ok (t.romVector k) t) {t : State}
    (h : takeInterrupt vec s = .ok () t) :
    3 ≤ s.sp.toNat ∧ t = (s.entered s.pc false (s.romVector k)).addCycles s.intCycles := by
  rw [takeInterrupt_eq] at h
  obtain ⟨_, u, hentry, hcycles⟩ := M.bind_ok_inv h
  obtain ⟨hroom, rfl⟩ := intSeq_inv hvec hentry
  cases hcycles
  exact ⟨hroom, rfl⟩

theorem irq_masked (h : s.flag .interruptDisable = true) : irq s = .ok () s := by
  rw [irq, M.bind_of_ok (readState_apply s), if_pos h, M.pure_apply]

theorem irq_unmasked (h : s.flag .interruptDisable = false) : irq s = takeInterrupt Config.vecIrq s := by
  rw [irq, M.bind_of_ok (readState_apply s), h]
  rfl

end

/-- Settles O57: NMI and an IRQ that is not masked are `TakeInterrupt`, in the four cases of SP. -/
theorem irqAndNmiEntry : Obligations.IrqAndNmiEntry := by
  refine ⟨fun s => irq_masked, fun s action k haction => ?_⟩
  have htake : ∃ vec, action s = takeInterrupt vec s ∧ ∀ t, busLoad16 vec t = .ok (t.romVector k) t := by
    rcases haction with ⟨rfl, rfl⟩ | ⟨rfl, rfl, henabled⟩
    · exact ⟨Config.vecNmi, rfl, busLoad16_vecNmi_romVector⟩
    · exact ⟨Config.vecIrq, irq_unmasked henabled, busLoad16_vecIrq_romVector⟩
  obtain ⟨vec, haction, hvec⟩ := htake
  rw [haction]
  exact ⟨takeInterrupt_ok hvec, fun hsp => takeInterrupt_error (intSeq_error_third hsp _ _ _),
    fun hsp => takeInterrupt_error (intSeq_error_second hsp _ _ _),
    fun hsp => takeInterrupt_error (intSeq_error_first hsp _ _ _)⟩

/-- Pulling the status byte that an entry pushed undoes the entry's I, and Break and unused were never changed
(60_exceptions.md R166). -/
theorem pulledStatus_pushed (p : Byte) (brk : Bool) :
    pulledStatus (putFlag p .interruptDisable true) (if brk then pushedBreak p else pushedInterrupt p) = p := by
  apply status_ext
  intro f
  rw [flagOf_pulledStatus, flagOf_putFlag]
  cases brk <;> cases f <;> simp [flagOf_pushedBreak, flagOf_pushedInterrupt]

/-- SP, P and the registers are those of the interrupted state `s`, and PC is the return address. -/
def ReturnsTo (s : State) (ret : Word) (u : State) : Prop :=
  u.pc = ret ∧ u.sp = s.sp ∧ u.p = s.p ∧ u.a = s.a ∧ u.x = s.x ∧ u.y = s.y

/-- The three bytes of an entry, read where RTI pops them. -/
theorem entered_bytes {s : State} (hram : s.ram.wf Config.ramSize = true) (ret : Word) (brk : Bool) (target : Word) :
    (s.entered ret brk target).top = (if brk then pushedBreak s.p else pushedInterrupt s.p) ∧
      (s.entered ret brk target).ram.read (0x0100 + (s.sp - 1).toNat) = lo ret ∧
      (s.entered ret brk target).ram.read (0x0100 + s.sp.toNat) = hi ret := by
  obtain ⟨hhigh, hlow⟩ := read_pushed_pushed hram (hi ret) (lo ret)
  have hram2 := pushed_wf (pushed_wf hram (hi ret)) (lo ret)
  have hother : ∀ o, o ≠ 0x0100 + (s.sp - 1 - 1).toNat → (s.entered ret brk target).ram.read o =
      ((s.pushed (hi ret)).pushed (lo ret)).ram.read o := fun o ho => (Memory.read_write hram2 _ o _).trans (if_neg ho)
  refine ⟨pushed_top hram2 _, ?_, ?_⟩
  · rw [hother _ (by bv_omega), hlow]
  · rw [hother _ (by bv_omega), hhigh]

/-- RTI after an interrupt entry, whatever cycles the entry took. -/
theorem exec_rti_entered {s : State} (hram : s.ram.wf Config.ramSize = true) (hroom : 3 ≤ s.sp.toNat) (ret : Word)
    (brk : Bool) (target : Word) (n : Nat) :
    ∃ u, exec .rti ((s.entered ret brk target).addCycles n) = .next u ∧ ReturnsTo s ret u := by
  obtain ⟨htop, hlow, hhigh⟩ := entered_bytes hram ret brk target
  have hsp : (s.entered ret brk target).sp = s.sp - 1 - 1 - 1 := rfl
  have hleft : (s.entered ret brk target).sp.toNat ≤ 0xFC := by rw [hsp]; bv_omega
  have hsp3 : (s.entered ret brk target).sp + 3 = s.sp := by rw [hsp]; bv_omega
  have hsp2 : (s.entered ret brk target).sp + 2 = s.sp - 1 := by rw [hsp]; bv_omega
  obtain ⟨-, -, hrti⟩ := rtiRestoresStatusAndAddress
  obtain ⟨hreturn, -⟩ := hrti ((s.entered ret brk target).addCycles n)
  refine ⟨_, hreturn hleft, ?_, hsp3, ?_, rfl, rfl, rfl⟩
  · show cat _ _ = ret
    simp only [State.addCycles_ram, State.addCycles_sp, hsp3, hsp2, hhigh, hlow, cat_hi_lo]
  · exact (congrArg (pulledStatus _) htop).trans (pulledStatus_pushed s.p brk)

/-- An IRQ or NMI that changes the state was taken. -/
theorem interrupt_taken {s t : State} {action : M Unit} (haction : action = nmi ∨ action = irq)
    (h : action s = .ok () t) (hne : t ≠ s) :
    ∃ vec k, takeInterrupt vec s = .ok () t ∧ ∀ u, busLoad16 vec u = .ok (u.romVector k) u := by
  rcases haction with rfl | rfl
  · exact ⟨Config.vecNmi, 6, h, busLoad16_vecNmi_romVector⟩
  · cases hmask : s.flag .interruptDisable with
    | false => exact ⟨Config.vecIrq, 2, irq_unmasked hmask ▸ h, busLoad16_vecIrq_romVector⟩
    | true =>
      rw [irq_masked hmask] at h
      cases h
      exact absurd rfl hne

/-- Settles O58: BRK, NMI and an IRQ that is taken leave an entered state (`exec_rti_entered`), BRK's with its return
address two past its opcode. -/
theorem interruptThenReturn : Obligations.InterruptThenReturn := by
  refine ⟨fun s t hwf hbrk => ?brk, fun s t action hwf haction hrun hne => ?taken⟩
  case brk =>
    obtain ⟨hram, -⟩ := s.wf_iff.mp hwf
    rw [exec_brk_eq, outcome_eq_next] at hbrk
    obtain ⟨hroom, rfl⟩ := intSeq_inv busLoad16_vecIrq_romVector hbrk
    have hreturn := exec_rti_entered (s := s.past 1 7) hram hroom (s.pc + 2) true ((s.past 1 7).romVector 2) 0
    rwa [addCycles_zero] at hreturn
  case taken =>
    obtain ⟨hram, -⟩ := s.wf_iff.mp hwf
    obtain ⟨vec, k, htake, hvec⟩ := interrupt_taken haction hrun hne
    obtain ⟨hroom, rfl⟩ := takeInterrupt_inv hvec htake
    exact exec_rti_entered hram hroom s.pc false _ _

end Sys2Proof.Machine
end

section
/-! Reset and power-on (70_reset_and_hazards.md R173 to R175). -/

namespace Sys2Proof.Machine

/-- Settles O59: `reset()` writes the CPU record alone. -/
theorem resetReplacesTheCpuState : Obligations.ResetReplacesTheCpuState :=
  ⟨fun _ => ⟨rfl, rfl, rfl, rfl, rfl, rfl, rfl, rfl, rfl⟩, rfl⟩

/-- A byte of a list loaded into a device (70_reset_and_hazards.md R174). -/
theorem Memory.read_ofBytes_getElem {bytes : List Byte} {o : Nat} (h : o < bytes.length) :
    (Memory.ofBytes bytes 0).read o = bytes[o] := by
  have hread := Memory.read_ofBytes bytes 0 o
  rwa [Nat.zero_add, List.getD_eq_getElem _ _ h] at hread

variable {l : Launch}

theorem Launch.banks_eq_none (h1 : l.prgBanks ≠ 1) (h2 : l.prgBanks ≠ 2) : l.banks = none := by
  rw [Launch.banks, if_neg h1, if_neg h2]

theorem Launch.banks_eq_some (h : l.prgBanks = 1 ∨ l.prgBanks = 2) :
    ∃ b, l.banks = some b ∧ b.prgSize = 0x4000 * l.prgBanks := by
  rcases h with h | h
  · exact ⟨.one, by rw [Launch.banks, if_pos h], by rw [h]; rfl⟩
  · exact ⟨.two, by rw [Launch.banks, h]; rfl, by rw [h]; rfl⟩

theorem powerOn_of_banks {b : Banks} (h : l.banks = some b) :
    powerOn l = if l.prg.length = b.prgSize then .ok (l.state b) else .error .prgLength := by
  rw [powerOn, h]

/-- The launch state meets the invariant where the devices do. -/
theorem Launch.state_wf {b : Banks} (hprg : l.prg.length = b.prgSize) (hppu : l.ppu.wf Config.ppuRegs = true)
    (hio : l.io.wf Config.ioRegs = true) : (l.state b).wf = true :=
  (State.wf_iff _).mpr ⟨Memory.ofBytes_wf (by simp), Memory.ofBytes_wf hprg.le,
    show Config.resetP &&& 0x30 = 0x20 by decide, hppu, hio⟩

/-- Settles O60: two checks, then a record made of the launch inputs. -/
theorem powerOnBuildsTheLaunchState : Obligations.PowerOnBuildsTheLaunchState := by
  refine fun l => ⟨fun h1 h2 => ?bankCount, fun hbanks hlength => ?prgLength, fun hbanks hlength => ?built⟩
  case bankCount => rw [powerOn, Launch.banks_eq_none h1 h2]
  case prgLength =>
    obtain ⟨b, hb, hsize⟩ := Launch.banks_eq_some hbanks
    rw [powerOn_of_banks hb, hsize, if_neg hlength]
  case built =>
    obtain ⟨b, hb, hsize⟩ := Launch.banks_eq_some hbanks
    have hprg : l.prg.length = b.prgSize := hlength.trans hsize.symm
    refine ⟨l.state b, by rw [powerOn_of_banks hb, if_pos hprg], rfl, rfl, fun o h => ?ram, fun o h => ?prg, hprg.symm,
      rfl, rfl, rfl, rfl, rfl, rfl, Launch.state_wf hprg⟩
    case ram => exact Memory.read_ofBytes_getElem (by simpa using h)
    case prg => exact Memory.read_ofBytes_getElem h

end Sys2Proof.Machine
end
